-- ==== Sys2Proof/Word.lean ====
section
/-! DEFINITION. The two word types of the block (00_scope.md R6, R8): a byte and a 16-bit address. -/

namespace Sys2Proof

/-- A data word: 8 bits (R6), the `u8` of R8. -/
abbrev Byte := BitVec 8

/-- An address or a PC value: 16 bits (R6), the `u16` of R8. -/
abbrev Word := BitVec 16

end Sys2Proof
end

