-- ==== Sys2Proof/Syntax.lean ====
section
/-! DEFINITION. The instruction set as data: the 56 mnemonics, the 13 mode tags, the operand forms, and `Instr`
with one constructor per row of spec/opcode_table.json (30_encoding.md R81, R84). -/

namespace Sys2Proof

/-- The 56 mnemonics (R1, R84). -/
inductive Mnemonic where
  | adc | and | asl | bcc | bcs | beq | bit | bmi
  | bne | bpl | brk | bvc | bvs | clc | cld | cli
  | clv | cmp | cpx | cpy | dec | dex | dey | eor
  | inc | inx | iny | jmp | jsr | lda | ldx | ldy
  | lsr | nop | ora | pha | php | pla | plp | rol
  | ror | rti | rts | sbc | sec | sed | sei | sta
  | stx | sty | tax | tay | tsx | txa | txs | tya
deriving DecidableEq, Repr

/-- The 13 addressing-mode tags (R81). -/
inductive Mode where
  | imp | acc | imm | zp | zpx | zpy | rel | izx | izy | abs | abx | aby | ind
deriving DecidableEq, Repr

/-- The modes that name one memory cell, each with its operand field (R90 to R95, R97, R98). -/
inductive MemForm where
  | zp  (z : Byte)
  | zpx (z : Byte)
  | zpy (z : Byte)
  | abs (a : Word)
  | abx (a : Word)
  | aby (a : Word)
  | izx (z : Byte)
  | izy (z : Byte)
deriving DecidableEq, Repr

/-- An addressing mode with its operand field: what follows the opcode byte (R81). -/
inductive Form where
  | imp
  | acc
  | imm (v : Byte)
  | mem (m : MemForm)
  | ind (ptr : Word)
  | rel (off : Byte)
deriving DecidableEq, Repr

/-- The operand of a reading instruction: a literal byte or a memory cell (R101, `ReadOperand`). -/
inductive Source where
  | imm (v : Byte)
  | mem (m : MemForm)
deriving DecidableEq, Repr

/-- The operand of a read-modify-write instruction: A or a memory cell (R101, `WriteOperand`). -/
inductive Place where
  | acc
  | mem (m : MemForm)
deriving DecidableEq, Repr

/-- The instructions: one constructor per row of spec/opcode_table.json, its operand field as its argument
(imm8, zp8, off8, or the 16-bit field `(hi8 << 8) | lo8` of R81). -/
inductive Instr where
  -- loads and stores (43_load_store.md)
  | ldaIzx (z : Byte)
  | ldaZp (z : Byte)
  | ldaImm (v : Byte)
  | ldaAbs (a : Word)
  | ldaIzy (z : Byte)
  | ldaZpx (z : Byte)
  | ldaAby (a : Word)
  | ldaAbx (a : Word)
  | ldxImm (v : Byte)
  | ldxZp (z : Byte)
  | ldxAbs (a : Word)
  | ldxZpy (z : Byte)
  | ldxAby (a : Word)
  | ldyImm (v : Byte)
  | ldyZp (z : Byte)
  | ldyAbs (a : Word)
  | ldyZpx (z : Byte)
  | ldyAbx (a : Word)
  | staIzx (z : Byte)
  | staZp (z : Byte)
  | staAbs (a : Word)
  | staIzy (z : Byte)
  | staZpx (z : Byte)
  | staAby (a : Word)
  | staAbx (a : Word)
  | stxZp (z : Byte)
  | stxAbs (a : Word)
  | stxZpy (z : Byte)
  | styZp (z : Byte)
  | styAbs (a : Word)
  | styZpx (z : Byte)
  -- arithmetic, logic, compares, BIT (45_alu.md)
  | adcIzx (z : Byte)
  | adcZp (z : Byte)
  | adcImm (v : Byte)
  | adcAbs (a : Word)
  | adcIzy (z : Byte)
  | adcZpx (z : Byte)
  | adcAby (a : Word)
  | adcAbx (a : Word)
  | sbcIzx (z : Byte)
  | sbcZp (z : Byte)
  | sbcImm (v : Byte)
  | sbcAbs (a : Word)
  | sbcIzy (z : Byte)
  | sbcZpx (z : Byte)
  | sbcAby (a : Word)
  | sbcAbx (a : Word)
  | andIzx (z : Byte)
  | andZp (z : Byte)
  | andImm (v : Byte)
  | andAbs (a : Word)
  | andIzy (z : Byte)
  | andZpx (z : Byte)
  | andAby (a : Word)
  | andAbx (a : Word)
  | oraIzx (z : Byte)
  | oraZp (z : Byte)
  | oraImm (v : Byte)
  | oraAbs (a : Word)
  | oraIzy (z : Byte)
  | oraZpx (z : Byte)
  | oraAby (a : Word)
  | oraAbx (a : Word)
  | eorIzx (z : Byte)
  | eorZp (z : Byte)
  | eorImm (v : Byte)
  | eorAbs (a : Word)
  | eorIzy (z : Byte)
  | eorZpx (z : Byte)
  | eorAby (a : Word)
  | eorAbx (a : Word)
  | cmpIzx (z : Byte)
  | cmpZp (z : Byte)
  | cmpImm (v : Byte)
  | cmpAbs (a : Word)
  | cmpIzy (z : Byte)
  | cmpZpx (z : Byte)
  | cmpAby (a : Word)
  | cmpAbx (a : Word)
  | cpxImm (v : Byte)
  | cpxZp (z : Byte)
  | cpxAbs (a : Word)
  | cpyImm (v : Byte)
  | cpyZp (z : Byte)
  | cpyAbs (a : Word)
  | bitZp (z : Byte)
  | bitAbs (a : Word)
  -- shifts, rotates, increments, decrements (46_shift_incdec.md)
  | aslZp (z : Byte)
  | aslAcc
  | aslAbs (a : Word)
  | aslZpx (z : Byte)
  | aslAbx (a : Word)
  | lsrZp (z : Byte)
  | lsrAcc
  | lsrAbs (a : Word)
  | lsrZpx (z : Byte)
  | lsrAbx (a : Word)
  | rolZp (z : Byte)
  | rolAcc
  | rolAbs (a : Word)
  | rolZpx (z : Byte)
  | rolAbx (a : Word)
  | rorZp (z : Byte)
  | rorAcc
  | rorAbs (a : Word)
  | rorZpx (z : Byte)
  | rorAbx (a : Word)
  | incZp (z : Byte)
  | incAbs (a : Word)
  | incZpx (z : Byte)
  | incAbx (a : Word)
  | decZp (z : Byte)
  | decAbs (a : Word)
  | decZpx (z : Byte)
  | decAbx (a : Word)
  | inx
  | iny
  | dex
  | dey
  -- transfers and stack instructions (47_transfer_stack.md)
  | tax
  | tay
  | txa
  | tya
  | tsx
  | txs
  | pha
  | pla
  | php
  | plp
  -- flag instructions and NOP (44_flags_nop.md)
  | clc
  | sec
  | cli
  | sei
  | clv
  | cld
  | sed
  | nop
  -- branches (41_branches.md)
  | bpl (off : Byte)
  | bmi (off : Byte)
  | bvc (off : Byte)
  | bvs (off : Byte)
  | bcc (off : Byte)
  | bcs (off : Byte)
  | bne (off : Byte)
  | beq (off : Byte)
  -- control (42_control.md)
  | jmpAbs (a : Word)
  | jmpInd (ptr : Word)
  | jsr (a : Word)
  | rts
  | brk
  | rti
deriving DecidableEq, Repr

/-- The tag of a memory form. -/
def MemForm.mode : MemForm → Mode
  | .zp _ => .zp
  | .zpx _ => .zpx
  | .zpy _ => .zpy
  | .abs _ => .abs
  | .abx _ => .abx
  | .aby _ => .aby
  | .izx _ => .izx
  | .izy _ => .izy

/-- The mode tag of a form. -/
def Form.mode : Form → Mode
  | .imp => .imp
  | .acc => .acc
  | .imm _ => .imm
  | .mem m => m.mode
  | .ind _ => .ind
  | .rel _ => .rel

/-- The form as the operand of a reading instruction, for the forms that have one (R101). -/
def Form.source? : Form → Option Source
  | .imm v => some (.imm v)
  | .mem m => some (.mem m)
  | .imp | .acc | .ind _ | .rel _ => none

/-- The form as the operand of a read-modify-write instruction, for the forms that have one (R101). -/
def Form.place? : Form → Option Place
  | .acc => some .acc
  | .mem m => some (.mem m)
  | .imp | .imm _ | .ind _ | .rel _ => none

/-- The form as the target of a store, for the forms that have one (R101). -/
def Form.memForm? : Form → Option MemForm
  | .mem m => some m
  | .imp | .acc | .imm _ | .ind _ | .rel _ => none

/-- The form of a reading instruction's operand. -/
def Source.form : Source → Form
  | .imm v => .imm v
  | .mem m => .mem m

/-- The mnemonic of an instruction: the `mnemonic` column of its row. -/
def Instr.mnemonic : Instr → Mnemonic
  | .ldaIzx _ | .ldaZp _ | .ldaImm _ | .ldaAbs _ | .ldaIzy _ | .ldaZpx _ | .ldaAby _ | .ldaAbx _ => .lda
  | .ldxImm _ | .ldxZp _ | .ldxAbs _ | .ldxZpy _ | .ldxAby _ => .ldx
  | .ldyImm _ | .ldyZp _ | .ldyAbs _ | .ldyZpx _ | .ldyAbx _ => .ldy
  | .staIzx _ | .staZp _ | .staAbs _ | .staIzy _ | .staZpx _ | .staAby _ | .staAbx _ => .sta
  | .stxZp _ | .stxAbs _ | .stxZpy _ => .stx
  | .styZp _ | .styAbs _ | .styZpx _ => .sty
  | .adcIzx _ | .adcZp _ | .adcImm _ | .adcAbs _ | .adcIzy _ | .adcZpx _ | .adcAby _ | .adcAbx _ => .adc
  | .sbcIzx _ | .sbcZp _ | .sbcImm _ | .sbcAbs _ | .sbcIzy _ | .sbcZpx _ | .sbcAby _ | .sbcAbx _ => .sbc
  | .andIzx _ | .andZp _ | .andImm _ | .andAbs _ | .andIzy _ | .andZpx _ | .andAby _ | .andAbx _ => .and
  | .oraIzx _ | .oraZp _ | .oraImm _ | .oraAbs _ | .oraIzy _ | .oraZpx _ | .oraAby _ | .oraAbx _ => .ora
  | .eorIzx _ | .eorZp _ | .eorImm _ | .eorAbs _ | .eorIzy _ | .eorZpx _ | .eorAby _ | .eorAbx _ => .eor
  | .cmpIzx _ | .cmpZp _ | .cmpImm _ | .cmpAbs _ | .cmpIzy _ | .cmpZpx _ | .cmpAby _ | .cmpAbx _ => .cmp
  | .cpxImm _ | .cpxZp _ | .cpxAbs _ => .cpx
  | .cpyImm _ | .cpyZp _ | .cpyAbs _ => .cpy
  | .bitZp _ | .bitAbs _ => .bit
  | .aslZp _ | .aslAcc | .aslAbs _ | .aslZpx _ | .aslAbx _ => .asl
  | .lsrZp _ | .lsrAcc | .lsrAbs _ | .lsrZpx _ | .lsrAbx _ => .lsr
  | .rolZp _ | .rolAcc | .rolAbs _ | .rolZpx _ | .rolAbx _ => .rol
  | .rorZp _ | .rorAcc | .rorAbs _ | .rorZpx _ | .rorAbx _ => .ror
  | .incZp _ | .incAbs _ | .incZpx _ | .incAbx _ => .inc
  | .decZp _ | .decAbs _ | .decZpx _ | .decAbx _ => .dec
  | .inx => .inx
  | .iny => .iny
  | .dex => .dex
  | .dey => .dey
  | .tax => .tax
  | .tay => .tay
  | .txa => .txa
  | .tya => .tya
  | .tsx => .tsx
  | .txs => .txs
  | .pha => .pha
  | .pla => .pla
  | .php => .php
  | .plp => .plp
  | .clc => .clc
  | .sec => .sec
  | .cli => .cli
  | .sei => .sei
  | .clv => .clv
  | .cld => .cld
  | .sed => .sed
  | .nop => .nop
  | .bpl _ => .bpl
  | .bmi _ => .bmi
  | .bvc _ => .bvc
  | .bvs _ => .bvs
  | .bcc _ => .bcc
  | .bcs _ => .bcs
  | .bne _ => .bne
  | .beq _ => .beq
  | .jmpAbs _ | .jmpInd _ => .jmp
  | .jsr _ => .jsr
  | .rts => .rts
  | .brk => .brk
  | .rti => .rti

/-- The addressing mode of an instruction with its operand field: the `format` column of its row. -/
def Instr.form : Instr → Form
  | .ldaIzx z => .mem (.izx z)
  | .ldaZp z => .mem (.zp z)
  | .ldaImm v => .imm v
  | .ldaAbs a => .mem (.abs a)
  | .ldaIzy z => .mem (.izy z)
  | .ldaZpx z => .mem (.zpx z)
  | .ldaAby a => .mem (.aby a)
  | .ldaAbx a => .mem (.abx a)
  | .ldxImm v => .imm v
  | .ldxZp z => .mem (.zp z)
  | .ldxAbs a => .mem (.abs a)
  | .ldxZpy z => .mem (.zpy z)
  | .ldxAby a => .mem (.aby a)
  | .ldyImm v => .imm v
  | .ldyZp z => .mem (.zp z)
  | .ldyAbs a => .mem (.abs a)
  | .ldyZpx z => .mem (.zpx z)
  | .ldyAbx a => .mem (.abx a)
  | .staIzx z => .mem (.izx z)
  | .staZp z => .mem (.zp z)
  | .staAbs a => .mem (.abs a)
  | .staIzy z => .mem (.izy z)
  | .staZpx z => .mem (.zpx z)
  | .staAby a => .mem (.aby a)
  | .staAbx a => .mem (.abx a)
  | .stxZp z => .mem (.zp z)
  | .stxAbs a => .mem (.abs a)
  | .stxZpy z => .mem (.zpy z)
  | .styZp z => .mem (.zp z)
  | .styAbs a => .mem (.abs a)
  | .styZpx z => .mem (.zpx z)
  | .adcIzx z => .mem (.izx z)
  | .adcZp z => .mem (.zp z)
  | .adcImm v => .imm v
  | .adcAbs a => .mem (.abs a)
  | .adcIzy z => .mem (.izy z)
  | .adcZpx z => .mem (.zpx z)
  | .adcAby a => .mem (.aby a)
  | .adcAbx a => .mem (.abx a)
  | .sbcIzx z => .mem (.izx z)
  | .sbcZp z => .mem (.zp z)
  | .sbcImm v => .imm v
  | .sbcAbs a => .mem (.abs a)
  | .sbcIzy z => .mem (.izy z)
  | .sbcZpx z => .mem (.zpx z)
  | .sbcAby a => .mem (.aby a)
  | .sbcAbx a => .mem (.abx a)
  | .andIzx z => .mem (.izx z)
  | .andZp z => .mem (.zp z)
  | .andImm v => .imm v
  | .andAbs a => .mem (.abs a)
  | .andIzy z => .mem (.izy z)
  | .andZpx z => .mem (.zpx z)
  | .andAby a => .mem (.aby a)
  | .andAbx a => .mem (.abx a)
  | .oraIzx z => .mem (.izx z)
  | .oraZp z => .mem (.zp z)
  | .oraImm v => .imm v
  | .oraAbs a => .mem (.abs a)
  | .oraIzy z => .mem (.izy z)
  | .oraZpx z => .mem (.zpx z)
  | .oraAby a => .mem (.aby a)
  | .oraAbx a => .mem (.abx a)
  | .eorIzx z => .mem (.izx z)
  | .eorZp z => .mem (.zp z)
  | .eorImm v => .imm v
  | .eorAbs a => .mem (.abs a)
  | .eorIzy z => .mem (.izy z)
  | .eorZpx z => .mem (.zpx z)
  | .eorAby a => .mem (.aby a)
  | .eorAbx a => .mem (.abx a)
  | .cmpIzx z => .mem (.izx z)
  | .cmpZp z => .mem (.zp z)
  | .cmpImm v => .imm v
  | .cmpAbs a => .mem (.abs a)
  | .cmpIzy z => .mem (.izy z)
  | .cmpZpx z => .mem (.zpx z)
  | .cmpAby a => .mem (.aby a)
  | .cmpAbx a => .mem (.abx a)
  | .cpxImm v => .imm v
  | .cpxZp z => .mem (.zp z)
  | .cpxAbs a => .mem (.abs a)
  | .cpyImm v => .imm v
  | .cpyZp z => .mem (.zp z)
  | .cpyAbs a => .mem (.abs a)
  | .bitZp z => .mem (.zp z)
  | .bitAbs a => .mem (.abs a)
  | .aslZp z => .mem (.zp z)
  | .aslAcc => .acc
  | .aslAbs a => .mem (.abs a)
  | .aslZpx z => .mem (.zpx z)
  | .aslAbx a => .mem (.abx a)
  | .lsrZp z => .mem (.zp z)
  | .lsrAcc => .acc
  | .lsrAbs a => .mem (.abs a)
  | .lsrZpx z => .mem (.zpx z)
  | .lsrAbx a => .mem (.abx a)
  | .rolZp z => .mem (.zp z)
  | .rolAcc => .acc
  | .rolAbs a => .mem (.abs a)
  | .rolZpx z => .mem (.zpx z)
  | .rolAbx a => .mem (.abx a)
  | .rorZp z => .mem (.zp z)
  | .rorAcc => .acc
  | .rorAbs a => .mem (.abs a)
  | .rorZpx z => .mem (.zpx z)
  | .rorAbx a => .mem (.abx a)
  | .incZp z => .mem (.zp z)
  | .incAbs a => .mem (.abs a)
  | .incZpx z => .mem (.zpx z)
  | .incAbx a => .mem (.abx a)
  | .decZp z => .mem (.zp z)
  | .decAbs a => .mem (.abs a)
  | .decZpx z => .mem (.zpx z)
  | .decAbx a => .mem (.abx a)
  | .inx => .imp
  | .iny => .imp
  | .dex => .imp
  | .dey => .imp
  | .tax => .imp
  | .tay => .imp
  | .txa => .imp
  | .tya => .imp
  | .tsx => .imp
  | .txs => .imp
  | .pha => .imp
  | .pla => .imp
  | .php => .imp
  | .plp => .imp
  | .clc => .imp
  | .sec => .imp
  | .cli => .imp
  | .sei => .imp
  | .clv => .imp
  | .cld => .imp
  | .sed => .imp
  | .nop => .imp
  | .bpl off => .rel off
  | .bmi off => .rel off
  | .bvc off => .rel off
  | .bvs off => .rel off
  | .bcc off => .rel off
  | .bcs off => .rel off
  | .bne off => .rel off
  | .beq off => .rel off
  | .jmpAbs a => .mem (.abs a)
  | .jmpInd ptr => .ind ptr
  | .jsr a => .mem (.abs a)
  | .rts => .imp
  | .brk => .imp
  | .rti => .imp

end Sys2Proof
end

