-- ==== Sys2Proof/WellFormed.lean ====
section
/-! DEFINITION. Which mnemonic takes which mode: the by-mnemonic half of 30_encoding.md R84. An `Instr` is typed by
its row, so the only check left is the pairing of a mnemonic with a form, made where the two come from outside
(the disassembly syntax of R102). -/

namespace Sys2Proof

/-- The modes the table pairs with a mnemonic (R84, "The same entries, by mnemonic"). -/
def Mnemonic.modes : Mnemonic → List Mode
  | .adc | .and | .cmp | .eor | .lda | .ora | .sbc => [.imm, .zp, .zpx, .abs, .abx, .aby, .izx, .izy]
  | .asl | .lsr | .rol | .ror => [.acc, .zp, .zpx, .abs, .abx]
  | .bcc | .bcs | .beq | .bmi | .bne | .bpl | .bvc | .bvs => [.rel]
  | .bit => [.zp, .abs]
  | .brk | .clc | .cld | .cli | .clv | .dex | .dey | .inx | .iny | .nop | .pha | .php
  | .pla | .plp | .rti | .rts | .sec | .sed | .sei | .tax | .tay | .tsx | .txa | .txs | .tya => [.imp]
  | .cpx | .cpy => [.imm, .zp, .abs]
  | .dec | .inc => [.zp, .zpx, .abs, .abx]
  | .jmp => [.abs, .ind]
  | .jsr => [.abs]
  | .ldx => [.imm, .zp, .zpy, .abs, .aby]
  | .ldy => [.imm, .zp, .zpx, .abs, .abx]
  | .sta => [.zp, .zpx, .abs, .abx, .aby, .izx, .izy]
  | .stx => [.zp, .zpy, .abs]
  | .sty => [.zp, .zpx, .abs]

/-- A mnemonic and a form are well paired when the table has a row for them. -/
def WellFormed (m : Mnemonic) (f : Form) : Bool := m.modes.contains f.mode

/-- The check on an instruction: its mnemonic takes its form. Every `Instr` passes (`Laws.instr_wf`). -/
def Instr.wf (i : Instr) : Bool := WellFormed i.mnemonic i.form

end Sys2Proof
end

