-- ==== Sys2Proof/Decode.lean ====
section
/-! DEFINITION. The instruction decoder: the instruction table of 30_encoding.md R82 and R84 (rows written by the
high nibble of the opcode, as R84's map is), `decode`, total on any bytes and rejecting by name, and `encode`. -/

namespace Sys2Proof

/-- `(hi << 8) | lo` (R8, R81): the 16-bit value of two bytes in memory order. -/
def joinBytes (lo hi : Byte) : Word := hi ++ lo

/-- Bits 7 to 0 of a 16-bit value. -/
def loByte (w : Word) : Byte := w.extractLsb' 0 8

/-- Bits 15 to 8 of a 16-bit value. -/
def hiByte (w : Word) : Byte := w.extractLsb' 8 8

/-- The operand field of a row: no byte, one byte, or a little-endian 16-bit field (R81), and the instruction
made of it. -/
inductive OperandShape where
  | none (i : Instr)
  | byte (f : Byte → Instr)
  | word (f : Word → Instr)

/-- An entry of the instruction table (R82). Its length is `1 + mode.operandBytes`. -/
structure Row where
  opcode   : Byte
  mnemonic : Mnemonic
  mode     : Mode
  cycles   : Nat
  shape    : OperandShape

/-- The operand byte count of a mode (R81). -/
def Mode.operandBytes : Mode → Nat
  | .imp | .acc => 0
  | .imm | .zp | .zpx | .zpy | .rel | .izx | .izy => 1
  | .abs | .abx | .aby | .ind => 2

/-- Opcodes 0x00 to 0x0F (R84). -/
def tableRow0 : List Row :=
  [⟨0x00, .brk, .imp, 7, .none .brk⟩,
   ⟨0x01, .ora, .izx, 6, .byte .oraIzx⟩,
   ⟨0x05, .ora, .zp, 3, .byte .oraZp⟩,
   ⟨0x06, .asl, .zp, 5, .byte .aslZp⟩,
   ⟨0x08, .php, .imp, 3, .none .php⟩,
   ⟨0x09, .ora, .imm, 2, .byte .oraImm⟩,
   ⟨0x0A, .asl, .acc, 2, .none .aslAcc⟩,
   ⟨0x0D, .ora, .abs, 4, .word .oraAbs⟩,
   ⟨0x0E, .asl, .abs, 6, .word .aslAbs⟩]

/-- Opcodes 0x10 to 0x1F (R84). -/
def tableRow1 : List Row :=
  [⟨0x10, .bpl, .rel, 2, .byte .bpl⟩,
   ⟨0x11, .ora, .izy, 5, .byte .oraIzy⟩,
   ⟨0x15, .ora, .zpx, 4, .byte .oraZpx⟩,
   ⟨0x16, .asl, .zpx, 6, .byte .aslZpx⟩,
   ⟨0x18, .clc, .imp, 2, .none .clc⟩,
   ⟨0x19, .ora, .aby, 4, .word .oraAby⟩,
   ⟨0x1D, .ora, .abx, 4, .word .oraAbx⟩,
   ⟨0x1E, .asl, .abx, 7, .word .aslAbx⟩]

/-- Opcodes 0x20 to 0x2F (R84). -/
def tableRow2 : List Row :=
  [⟨0x20, .jsr, .abs, 6, .word .jsr⟩,
   ⟨0x21, .and, .izx, 6, .byte .andIzx⟩,
   ⟨0x24, .bit, .zp, 3, .byte .bitZp⟩,
   ⟨0x25, .and, .zp, 3, .byte .andZp⟩,
   ⟨0x26, .rol, .zp, 5, .byte .rolZp⟩,
   ⟨0x28, .plp, .imp, 4, .none .plp⟩,
   ⟨0x29, .and, .imm, 2, .byte .andImm⟩,
   ⟨0x2A, .rol, .acc, 2, .none .rolAcc⟩,
   ⟨0x2C, .bit, .abs, 4, .word .bitAbs⟩,
   ⟨0x2D, .and, .abs, 4, .word .andAbs⟩,
   ⟨0x2E, .rol, .abs, 6, .word .rolAbs⟩]

/-- Opcodes 0x30 to 0x3F (R84). -/
def tableRow3 : List Row :=
  [⟨0x30, .bmi, .rel, 2, .byte .bmi⟩,
   ⟨0x31, .and, .izy, 5, .byte .andIzy⟩,
   ⟨0x35, .and, .zpx, 4, .byte .andZpx⟩,
   ⟨0x36, .rol, .zpx, 6, .byte .rolZpx⟩,
   ⟨0x38, .sec, .imp, 2, .none .sec⟩,
   ⟨0x39, .and, .aby, 4, .word .andAby⟩,
   ⟨0x3D, .and, .abx, 4, .word .andAbx⟩,
   ⟨0x3E, .rol, .abx, 7, .word .rolAbx⟩]

/-- Opcodes 0x40 to 0x4F (R84). -/
def tableRow4 : List Row :=
  [⟨0x40, .rti, .imp, 6, .none .rti⟩,
   ⟨0x41, .eor, .izx, 6, .byte .eorIzx⟩,
   ⟨0x45, .eor, .zp, 3, .byte .eorZp⟩,
   ⟨0x46, .lsr, .zp, 5, .byte .lsrZp⟩,
   ⟨0x48, .pha, .imp, 3, .none .pha⟩,
   ⟨0x49, .eor, .imm, 2, .byte .eorImm⟩,
   ⟨0x4A, .lsr, .acc, 2, .none .lsrAcc⟩,
   ⟨0x4C, .jmp, .abs, 3, .word .jmpAbs⟩,
   ⟨0x4D, .eor, .abs, 4, .word .eorAbs⟩,
   ⟨0x4E, .lsr, .abs, 6, .word .lsrAbs⟩]

/-- Opcodes 0x50 to 0x5F (R84). -/
def tableRow5 : List Row :=
  [⟨0x50, .bvc, .rel, 2, .byte .bvc⟩,
   ⟨0x51, .eor, .izy, 5, .byte .eorIzy⟩,
   ⟨0x55, .eor, .zpx, 4, .byte .eorZpx⟩,
   ⟨0x56, .lsr, .zpx, 6, .byte .lsrZpx⟩,
   ⟨0x58, .cli, .imp, 2, .none .cli⟩,
   ⟨0x59, .eor, .aby, 4, .word .eorAby⟩,
   ⟨0x5D, .eor, .abx, 4, .word .eorAbx⟩,
   ⟨0x5E, .lsr, .abx, 7, .word .lsrAbx⟩]

/-- Opcodes 0x60 to 0x6F (R84). -/
def tableRow6 : List Row :=
  [⟨0x60, .rts, .imp, 6, .none .rts⟩,
   ⟨0x61, .adc, .izx, 6, .byte .adcIzx⟩,
   ⟨0x65, .adc, .zp, 3, .byte .adcZp⟩,
   ⟨0x66, .ror, .zp, 5, .byte .rorZp⟩,
   ⟨0x68, .pla, .imp, 4, .none .pla⟩,
   ⟨0x69, .adc, .imm, 2, .byte .adcImm⟩,
   ⟨0x6A, .ror, .acc, 2, .none .rorAcc⟩,
   ⟨0x6C, .jmp, .ind, 5, .word .jmpInd⟩,
   ⟨0x6D, .adc, .abs, 4, .word .adcAbs⟩,
   ⟨0x6E, .ror, .abs, 6, .word .rorAbs⟩]

/-- Opcodes 0x70 to 0x7F (R84). -/
def tableRow7 : List Row :=
  [⟨0x70, .bvs, .rel, 2, .byte .bvs⟩,
   ⟨0x71, .adc, .izy, 5, .byte .adcIzy⟩,
   ⟨0x75, .adc, .zpx, 4, .byte .adcZpx⟩,
   ⟨0x76, .ror, .zpx, 6, .byte .rorZpx⟩,
   ⟨0x78, .sei, .imp, 2, .none .sei⟩,
   ⟨0x79, .adc, .aby, 4, .word .adcAby⟩,
   ⟨0x7D, .adc, .abx, 4, .word .adcAbx⟩,
   ⟨0x7E, .ror, .abx, 7, .word .rorAbx⟩]

/-- Opcodes 0x80 to 0x8F (R84). -/
def tableRow8 : List Row :=
  [⟨0x81, .sta, .izx, 6, .byte .staIzx⟩,
   ⟨0x84, .sty, .zp, 3, .byte .styZp⟩,
   ⟨0x85, .sta, .zp, 3, .byte .staZp⟩,
   ⟨0x86, .stx, .zp, 3, .byte .stxZp⟩,
   ⟨0x88, .dey, .imp, 2, .none .dey⟩,
   ⟨0x8A, .txa, .imp, 2, .none .txa⟩,
   ⟨0x8C, .sty, .abs, 4, .word .styAbs⟩,
   ⟨0x8D, .sta, .abs, 4, .word .staAbs⟩,
   ⟨0x8E, .stx, .abs, 4, .word .stxAbs⟩]

/-- Opcodes 0x90 to 0x9F (R84). -/
def tableRow9 : List Row :=
  [⟨0x90, .bcc, .rel, 2, .byte .bcc⟩,
   ⟨0x91, .sta, .izy, 6, .byte .staIzy⟩,
   ⟨0x94, .sty, .zpx, 4, .byte .styZpx⟩,
   ⟨0x95, .sta, .zpx, 4, .byte .staZpx⟩,
   ⟨0x96, .stx, .zpy, 4, .byte .stxZpy⟩,
   ⟨0x98, .tya, .imp, 2, .none .tya⟩,
   ⟨0x99, .sta, .aby, 5, .word .staAby⟩,
   ⟨0x9A, .txs, .imp, 2, .none .txs⟩,
   ⟨0x9D, .sta, .abx, 5, .word .staAbx⟩]

/-- Opcodes 0xA0 to 0xAF (R84). -/
def tableRowA : List Row :=
  [⟨0xA0, .ldy, .imm, 2, .byte .ldyImm⟩,
   ⟨0xA1, .lda, .izx, 6, .byte .ldaIzx⟩,
   ⟨0xA2, .ldx, .imm, 2, .byte .ldxImm⟩,
   ⟨0xA4, .ldy, .zp, 3, .byte .ldyZp⟩,
   ⟨0xA5, .lda, .zp, 3, .byte .ldaZp⟩,
   ⟨0xA6, .ldx, .zp, 3, .byte .ldxZp⟩,
   ⟨0xA8, .tay, .imp, 2, .none .tay⟩,
   ⟨0xA9, .lda, .imm, 2, .byte .ldaImm⟩,
   ⟨0xAA, .tax, .imp, 2, .none .tax⟩,
   ⟨0xAC, .ldy, .abs, 4, .word .ldyAbs⟩,
   ⟨0xAD, .lda, .abs, 4, .word .ldaAbs⟩,
   ⟨0xAE, .ldx, .abs, 4, .word .ldxAbs⟩]

/-- Opcodes 0xB0 to 0xBF (R84). -/
def tableRowB : List Row :=
  [⟨0xB0, .bcs, .rel, 2, .byte .bcs⟩,
   ⟨0xB1, .lda, .izy, 5, .byte .ldaIzy⟩,
   ⟨0xB4, .ldy, .zpx, 4, .byte .ldyZpx⟩,
   ⟨0xB5, .lda, .zpx, 4, .byte .ldaZpx⟩,
   ⟨0xB6, .ldx, .zpy, 4, .byte .ldxZpy⟩,
   ⟨0xB8, .clv, .imp, 2, .none .clv⟩,
   ⟨0xB9, .lda, .aby, 4, .word .ldaAby⟩,
   ⟨0xBA, .tsx, .imp, 2, .none .tsx⟩,
   ⟨0xBC, .ldy, .abx, 4, .word .ldyAbx⟩,
   ⟨0xBD, .lda, .abx, 4, .word .ldaAbx⟩,
   ⟨0xBE, .ldx, .aby, 4, .word .ldxAby⟩]

/-- Opcodes 0xC0 to 0xCF (R84). -/
def tableRowC : List Row :=
  [⟨0xC0, .cpy, .imm, 2, .byte .cpyImm⟩,
   ⟨0xC1, .cmp, .izx, 6, .byte .cmpIzx⟩,
   ⟨0xC4, .cpy, .zp, 3, .byte .cpyZp⟩,
   ⟨0xC5, .cmp, .zp, 3, .byte .cmpZp⟩,
   ⟨0xC6, .dec, .zp, 5, .byte .decZp⟩,
   ⟨0xC8, .iny, .imp, 2, .none .iny⟩,
   ⟨0xC9, .cmp, .imm, 2, .byte .cmpImm⟩,
   ⟨0xCA, .dex, .imp, 2, .none .dex⟩,
   ⟨0xCC, .cpy, .abs, 4, .word .cpyAbs⟩,
   ⟨0xCD, .cmp, .abs, 4, .word .cmpAbs⟩,
   ⟨0xCE, .dec, .abs, 6, .word .decAbs⟩]

/-- Opcodes 0xD0 to 0xDF (R84). -/
def tableRowD : List Row :=
  [⟨0xD0, .bne, .rel, 2, .byte .bne⟩,
   ⟨0xD1, .cmp, .izy, 5, .byte .cmpIzy⟩,
   ⟨0xD5, .cmp, .zpx, 4, .byte .cmpZpx⟩,
   ⟨0xD6, .dec, .zpx, 6, .byte .decZpx⟩,
   ⟨0xD8, .cld, .imp, 2, .none .cld⟩,
   ⟨0xD9, .cmp, .aby, 4, .word .cmpAby⟩,
   ⟨0xDD, .cmp, .abx, 4, .word .cmpAbx⟩,
   ⟨0xDE, .dec, .abx, 7, .word .decAbx⟩]

/-- Opcodes 0xE0 to 0xEF (R84). -/
def tableRowE : List Row :=
  [⟨0xE0, .cpx, .imm, 2, .byte .cpxImm⟩,
   ⟨0xE1, .sbc, .izx, 6, .byte .sbcIzx⟩,
   ⟨0xE4, .cpx, .zp, 3, .byte .cpxZp⟩,
   ⟨0xE5, .sbc, .zp, 3, .byte .sbcZp⟩,
   ⟨0xE6, .inc, .zp, 5, .byte .incZp⟩,
   ⟨0xE8, .inx, .imp, 2, .none .inx⟩,
   ⟨0xE9, .sbc, .imm, 2, .byte .sbcImm⟩,
   ⟨0xEA, .nop, .imp, 2, .none .nop⟩,
   ⟨0xEC, .cpx, .abs, 4, .word .cpxAbs⟩,
   ⟨0xED, .sbc, .abs, 4, .word .sbcAbs⟩,
   ⟨0xEE, .inc, .abs, 6, .word .incAbs⟩]

/-- Opcodes 0xF0 to 0xFF (R84). -/
def tableRowF : List Row :=
  [⟨0xF0, .beq, .rel, 2, .byte .beq⟩,
   ⟨0xF1, .sbc, .izy, 5, .byte .sbcIzy⟩,
   ⟨0xF5, .sbc, .zpx, 4, .byte .sbcZpx⟩,
   ⟨0xF6, .inc, .zpx, 6, .byte .incZpx⟩,
   ⟨0xF8, .sed, .imp, 2, .none .sed⟩,
   ⟨0xF9, .sbc, .aby, 4, .word .sbcAby⟩,
   ⟨0xFD, .sbc, .abx, 4, .word .sbcAbx⟩,
   ⟨0xFE, .inc, .abx, 7, .word .incAbx⟩]

/-- The rows of a high nibble: one line of the map of R84. -/
def tableRow (hi : Nat) : List Row :=
  match hi with
  | 0 => tableRow0
  | 1 => tableRow1
  | 2 => tableRow2
  | 3 => tableRow3
  | 4 => tableRow4
  | 5 => tableRow5
  | 6 => tableRow6
  | 7 => tableRow7
  | 8 => tableRow8
  | 9 => tableRow9
  | 10 => tableRowA
  | 11 => tableRowB
  | 12 => tableRowC
  | 13 => tableRowD
  | 14 => tableRowE
  | 15 => tableRowF
  | _ => []

/-- The instruction table (R82, R84): the 151 mapped opcodes. -/
def table : List Row := (List.range 16).flatMap tableRow

/-- `Table[op]` (R121): the entry of an opcode byte, or none for the unmapped ones (R85). -/
def lookup (op : Byte) : Option Row := (tableRow (op.toNat / 16)).find? (fun r => r.opcode == op)

/-- Why bytes are no instruction. -/
inductive DecodeError where
  /-- The first byte has no table entry (R85). -/
  | unmappedOpcode (op : Byte)
  /-- The bytes end before the operand bytes of the opcode do. -/
  | missingOperand (op : Byte)
  /-- There is no byte at all. -/
  | noBytes
deriving DecidableEq, Repr

/-- The instruction a row makes of the bytes after its opcode, and the bytes left over. -/
def Row.build (r : Row) (rest : List Byte) : Except DecodeError (Instr × List Byte) :=
  match r.shape, rest with
  | .none i, bs => .ok (i, bs)
  | .byte f, b :: bs => .ok (f b, bs)
  | .word f, lo :: hi :: bs => .ok (f (joinBytes lo hi), bs)
  | .byte _, [] | .word _, [] | .word _, [_] => .error (.missingOperand r.opcode)

/-- Reads one instruction from the front of a list of bytes in memory order (R80, R81). -/
def decode : List Byte → Except DecodeError (Instr × List Byte)
  | [] => .error .noBytes
  | op :: rest =>
    match lookup op with
    | none => .error (.unmappedOpcode op)
    | some r => r.build rest

/-- The opcode byte of an instruction (R84). -/
def Instr.opcode : Instr → Byte
  | .ldaIzx _ => 0xA1
  | .ldaZp _ => 0xA5
  | .ldaImm _ => 0xA9
  | .ldaAbs _ => 0xAD
  | .ldaIzy _ => 0xB1
  | .ldaZpx _ => 0xB5
  | .ldaAby _ => 0xB9
  | .ldaAbx _ => 0xBD
  | .ldxImm _ => 0xA2
  | .ldxZp _ => 0xA6
  | .ldxAbs _ => 0xAE
  | .ldxZpy _ => 0xB6
  | .ldxAby _ => 0xBE
  | .ldyImm _ => 0xA0
  | .ldyZp _ => 0xA4
  | .ldyAbs _ => 0xAC
  | .ldyZpx _ => 0xB4
  | .ldyAbx _ => 0xBC
  | .staIzx _ => 0x81
  | .staZp _ => 0x85
  | .staAbs _ => 0x8D
  | .staIzy _ => 0x91
  | .staZpx _ => 0x95
  | .staAby _ => 0x99
  | .staAbx _ => 0x9D
  | .stxZp _ => 0x86
  | .stxAbs _ => 0x8E
  | .stxZpy _ => 0x96
  | .styZp _ => 0x84
  | .styAbs _ => 0x8C
  | .styZpx _ => 0x94
  | .adcIzx _ => 0x61
  | .adcZp _ => 0x65
  | .adcImm _ => 0x69
  | .adcAbs _ => 0x6D
  | .adcIzy _ => 0x71
  | .adcZpx _ => 0x75
  | .adcAby _ => 0x79
  | .adcAbx _ => 0x7D
  | .sbcIzx _ => 0xE1
  | .sbcZp _ => 0xE5
  | .sbcImm _ => 0xE9
  | .sbcAbs _ => 0xED
  | .sbcIzy _ => 0xF1
  | .sbcZpx _ => 0xF5
  | .sbcAby _ => 0xF9
  | .sbcAbx _ => 0xFD
  | .andIzx _ => 0x21
  | .andZp _ => 0x25
  | .andImm _ => 0x29
  | .andAbs _ => 0x2D
  | .andIzy _ => 0x31
  | .andZpx _ => 0x35
  | .andAby _ => 0x39
  | .andAbx _ => 0x3D
  | .oraIzx _ => 0x01
  | .oraZp _ => 0x05
  | .oraImm _ => 0x09
  | .oraAbs _ => 0x0D
  | .oraIzy _ => 0x11
  | .oraZpx _ => 0x15
  | .oraAby _ => 0x19
  | .oraAbx _ => 0x1D
  | .eorIzx _ => 0x41
  | .eorZp _ => 0x45
  | .eorImm _ => 0x49
  | .eorAbs _ => 0x4D
  | .eorIzy _ => 0x51
  | .eorZpx _ => 0x55
  | .eorAby _ => 0x59
  | .eorAbx _ => 0x5D
  | .cmpIzx _ => 0xC1
  | .cmpZp _ => 0xC5
  | .cmpImm _ => 0xC9
  | .cmpAbs _ => 0xCD
  | .cmpIzy _ => 0xD1
  | .cmpZpx _ => 0xD5
  | .cmpAby _ => 0xD9
  | .cmpAbx _ => 0xDD
  | .cpxImm _ => 0xE0
  | .cpxZp _ => 0xE4
  | .cpxAbs _ => 0xEC
  | .cpyImm _ => 0xC0
  | .cpyZp _ => 0xC4
  | .cpyAbs _ => 0xCC
  | .bitZp _ => 0x24
  | .bitAbs _ => 0x2C
  | .aslZp _ => 0x06
  | .aslAcc => 0x0A
  | .aslAbs _ => 0x0E
  | .aslZpx _ => 0x16
  | .aslAbx _ => 0x1E
  | .lsrZp _ => 0x46
  | .lsrAcc => 0x4A
  | .lsrAbs _ => 0x4E
  | .lsrZpx _ => 0x56
  | .lsrAbx _ => 0x5E
  | .rolZp _ => 0x26
  | .rolAcc => 0x2A
  | .rolAbs _ => 0x2E
  | .rolZpx _ => 0x36
  | .rolAbx _ => 0x3E
  | .rorZp _ => 0x66
  | .rorAcc => 0x6A
  | .rorAbs _ => 0x6E
  | .rorZpx _ => 0x76
  | .rorAbx _ => 0x7E
  | .incZp _ => 0xE6
  | .incAbs _ => 0xEE
  | .incZpx _ => 0xF6
  | .incAbx _ => 0xFE
  | .decZp _ => 0xC6
  | .decAbs _ => 0xCE
  | .decZpx _ => 0xD6
  | .decAbx _ => 0xDE
  | .inx => 0xE8
  | .iny => 0xC8
  | .dex => 0xCA
  | .dey => 0x88
  | .tax => 0xAA
  | .tay => 0xA8
  | .txa => 0x8A
  | .tya => 0x98
  | .tsx => 0xBA
  | .txs => 0x9A
  | .pha => 0x48
  | .pla => 0x68
  | .php => 0x08
  | .plp => 0x28
  | .clc => 0x18
  | .sec => 0x38
  | .cli => 0x58
  | .sei => 0x78
  | .clv => 0xB8
  | .cld => 0xD8
  | .sed => 0xF8
  | .nop => 0xEA
  | .bpl _ => 0x10
  | .bmi _ => 0x30
  | .bvc _ => 0x50
  | .bvs _ => 0x70
  | .bcc _ => 0x90
  | .bcs _ => 0xB0
  | .bne _ => 0xD0
  | .beq _ => 0xF0
  | .jmpAbs _ => 0x4C
  | .jmpInd _ => 0x6C
  | .jsr _ => 0x20
  | .rts => 0x60
  | .brk => 0x00
  | .rti => 0x40

/-- The operand bytes of a memory form, in memory order. -/
def MemForm.operandBytes : MemForm → List Byte
  | .zp z | .zpx z | .zpy z | .izx z | .izy z => [z]
  | .abs a | .abx a | .aby a => [loByte a, hiByte a]

/-- The operand bytes of a form, in memory order (R81). -/
def Form.operandBytes : Form → List Byte
  | .imp | .acc => []
  | .imm v => [v]
  | .mem m => m.operandBytes
  | .ind ptr => [loByte ptr, hiByte ptr]
  | .rel off => [off]

/-- The bytes of an instruction, in memory order (R81). -/
def encode (i : Instr) : List Byte := i.opcode :: i.form.operandBytes

/-- The length of an instruction in bytes: 1 plus its operand byte count (R80, R82). -/
def Instr.length (i : Instr) : Nat := 1 + i.form.mode.operandBytes

/-- The instruction a mnemonic and a form assemble to: the row for the pair, applied to the form's operand bytes
(R103: exactly one row for each pair of R102). -/
def assemble (m : Mnemonic) (f : Form) : Option Instr :=
  match table.find? (fun r => r.mnemonic == m && r.mode == f.mode) with
  | none => none
  | some r =>
    match r.build f.operandBytes with
    | .ok (i, []) => some i
    | _ => none

/-- Whether a mnemonic reads its memory operand and writes it back (R101). -/
def Mnemonic.isRmw : Mnemonic → Bool
  | .asl | .lsr | .rol | .ror | .inc | .dec => true
  | _ => false

/-- The base cycle count of a mnemonic and mode, from the groups of 70_reset_and_hazards.md R300. The step itself
adds the `cycles` of the row (R127); that the two agree is an obligation. -/
def baseCyclesOf (m : Mnemonic) (mode : Mode) : Nat :=
  match mode with
  | .imp =>
    match m with
    | .pha | .php => 3
    | .pla | .plp => 4
    | .rts | .rti => 6
    | .brk => 7
    | _ => 2
  | .acc | .imm | .rel => 2
  | .zp => if m.isRmw then 5 else 3
  | .zpx | .zpy => if m.isRmw then 6 else 4
  | .abs => if m.isRmw then 6 else if m = .jmp then 3 else if m = .jsr then 6 else 4
  | .abx | .aby => if m.isRmw then 7 else if m = .sta then 5 else 4
  | .izx => 6
  | .izy => if m = .sta then 6 else 5
  | .ind => 5

/-- The base cycle count of an instruction (R300). -/
def Instr.baseCycles (i : Instr) : Nat := baseCyclesOf i.mnemonic i.form.mode

/-- The bytes of an instruction given as a number of `nbits` bits whose bit 0 is the least significant bit of the
first byte; every bit above is 0, up to the longest instruction's three bytes. -/
def tableWordBytes (nbits w : Nat) : List Byte :=
  let v := w % 2 ^ nbits
  [BitVec.ofNat 8 v, BitVec.ofNat 8 (v / 256), BitVec.ofNat 8 (v / 65536)]

/-- The instruction the decoder reads from such a number. -/
def decodeTableWord (nbits w : Nat) : Option Instr :=
  match decode (tableWordBytes nbits w) with
  | .ok (i, _) => some i
  | .error _ => none

end Sys2Proof
end

