-- ==== Sys2Proof/Config.lean ====
section
/-! DEFINITION. The named parameters of the hardware (00_scope.md R7) and the one free value of the model. -/

namespace Sys2Proof

/-- `STACK_POLICY` (R7, R73): what a push at S = 0x00 or a pop at S = 0xFF does. -/
inductive StackPolicy where
  | wrap
  | fault
deriving DecidableEq, Repr

/-- `DECIMAL_MODE` (R7): whether ADC and SBC with D = 1 are binary or refused. -/
inductive DecimalMode where
  | binary
  | refuse
deriving DecidableEq, Repr

/-- `IO_MODEL` (R7, R55): whether the device windows are plain cells or an oracle. -/
inductive IoModel where
  | ram
  | oracle
deriving DecidableEq, Repr

/-- The named parameters of R7, fixed for one machine: the state carries them and no step changes them.
`mem0` is `MEM0` written as data: the cells, in the canonical form of `Machine.Memory.wf`, whose power-on byte
is not the byte an unlisted address reads as; every function from canonical addresses to bytes is one such list. -/
structure Params where
  stackPolicy    : StackPolicy
  decimalMode    : DecimalMode
  jmpIndPageWrap : Bool
  ioModel        : IoModel
  mem0           : List (Nat × Byte)
  traceCmpCols   : Nat
deriving DecidableEq, Repr

/-- The defaults of R7. `MEM0` and `TRACE_CMP_COLS` are OPEN there: the empty list (every cell 0x00) and 73 are
the model's (DESIGN CHOICE, notes/assumptions/2.md and 3.md). -/
def Params.default : Params where
  stackPolicy := .wrap
  decimalMode := .binary
  jmpIndPageWrap := true
  ioModel := .ram
  mem0 := []
  traceCmpCols := 73

/-- FREE VALUE: the byte the n-th read of a device window draws under `IO_MODEL = oracle` ("returns an
unconstrained draw", R55). It has no body: nothing in Lean can evaluate it. The counter is `State.ioReads`
(notes/assumptions/4.md). -/
opaque Config.ioDraw : Nat → Byte

end Sys2Proof
end

