-- ==== Sys2Proof/Machine/State.lean ====
section
/-! DEFINITION. The state of the block (10_state.md R20 to R45), its ways of stopping, and the state after reset. -/

namespace Sys2Proof.Machine

/-- Memory: the cells whose byte is not the one an unlisted cell reads as, by rising canonical address
(20_memory.md R50, R52). The operations are in Memory.lean. -/
abbrev Memory := List Host.Cell

/-- One line of a trace, as characters (48_trace.md R243). -/
abbrev Line := List Char

/-- The stack operation a boundary event names (R74, R75). -/
inductive StackKind where
  | push
  | pop
deriving DecidableEq, Repr

/-- Why the dispatch loop is Halted (R37). -/
inductive HaltReason where
  /-- The fetched byte has no table entry (R123, R261). -/
  | unmappedOpcode (byte : Byte) (addr : Word)
  /-- The caller stopped the loop (R130, R268). -/
  | stopped
  /-- A push or a pop would have wrapped S, under `STACK_POLICY = fault` (R75, R263). -/
  | stackBoundary (kind : StackKind) (addr : Word)
deriving DecidableEq, Repr

/-- `run` and `halt_reason` (R37): a reason is held exactly when the loop is Halted. -/
inductive RunState where
  | running
  | halted (reason : HaltReason)
deriving DecidableEq, Repr

/-- A StackBoundary diagnostic (R74): what wrapped, and the address of the instruction's opcode. -/
structure Diagnostic where
  kind : StackKind
  addr : Word
deriving DecidableEq, Repr

/-- A write to a device window under `IO_MODEL = oracle`, recorded as an event (R55). -/
structure IoWrite where
  addr  : Word
  value : Byte
deriving DecidableEq, Repr

/-- `vstatus` (R41). A pass that a halt brought also carries the halt signal (R254). -/
inductive VerifyStatus where
  | comparing
  | passed (index : Nat) (signal : Option HaltReason)
  | mismatch (expected actual : Line) (index : Nat)
deriving DecidableEq, Repr

/-- The verifier's state while verification is active (R41). -/
structure Verifier where
  golden : List Line
  index  : Nat
  status : VerifyStatus
deriving DecidableEq, Repr

/-- The state. Registers, P, PC: R20 to R35. Memory: R40. `run`: R37. `cycles`: R38. `verifier`: R41, none while
inactive. `loaded`: whether a load has started a session (R290, R293). `params`: the parameters of R7, which no step
changes. `diags`, `ioReads` and `ioWrites` are the outputs and inputs the spec gives a step, held here because a step
answers with a state alone: the diagnostics the current step emitted (R42, R74), how many draws the device windows
have given, and the events of the writes to them, oldest first (R55). Nothing in the machine reads `diags` or
`ioWrites`. -/
structure State where
  a        : Byte
  x        : Byte
  y        : Byte
  sp       : Byte
  p        : Byte
  pc       : Word
  mem      : Memory
  run      : RunState
  cycles   : Nat
  verifier : Option Verifier
  loaded   : Bool
  params   : Params
  diags    : List Diagnostic
  ioReads  : Nat
  ioWrites : List IoWrite
deriving DecidableEq, Repr

/-- The faults of the machine: none. Every stop the spec describes either leaves a state (a halt, R123 and R75, is a
next state whose `run` is Halted) or has no successor state (a refusal, R264). -/
inductive Fault where
deriving DecidableEq, Repr

/-- The refusals of the machine: the stops the spec itself gives no successor state. -/
inductive Refusal where
  /-- Raised by `exec` for an instruction that has no meaning yet. Safe: the machine stops. No arm uses it. -/
  | notModelled (mnemonic : String)
  /-- Raised by ADC and SBC with D = 1 under `DECIMAL_MODE = refuse`, with the opcode address: the spec's own
  `Refused(DecimalArithmetic, a0)` (R264). Safe: no successor state. -/
  | decimalArithmetic (addr : Word)
  /-- Raised by the step before any load (R293: "A model may treat such a call as refused"). Safe. -/
  | notLoaded
deriving DecidableEq, Repr

/-- `reset(origin)` (R45, R291) under the given parameters: the state right after a load of no bytes at `origin`. -/
def State.resetTo (params : Params) (origin : Word) : State where
  a := 0x00
  x := 0x00
  y := 0x00
  sp := 0xFD
  p := 0x24
  pc := origin
  mem := params.mem0
  run := .running
  cycles := 0
  verifier := none
  loaded := true
  params := params
  diags := []
  ioReads := 0
  ioWrites := []

/-- The machine right after reset (R291), with the default parameters of R7. PC is the load origin, an argument of
the load: 0xC000 is the origin of the spec's own vectors (DESIGN CHOICE, notes/assumptions/1.md). -/
def State.reset : State := State.resetTo Params.default 0xC000

end Sys2Proof.Machine
end

