-- ==== Sys2Proof/Machine/Flags.lean ====
section
/-! DEFINITION. The status register's bits (10_state.md R26 to R35) and every flag computation
(40_dispatch.md R133, 45_alu.md, 46_shift_incdec.md). -/

namespace Sys2Proof.Machine

/-- The six stored flags of P (R26). -/
inductive StatusFlag where
  | n | v | d | i | z | c
deriving DecidableEq, Repr

/-- The bit of P that holds a flag (R26). -/
def StatusFlag.bit : StatusFlag → Nat
  | .n => 7
  | .v => 6
  | .d => 3
  | .i => 2
  | .z => 1
  | .c => 0

/-- A flag of a status byte. -/
def getFlag (f : StatusFlag) (p : Byte) : Bool := p.getLsbD f.bit

/-- A status byte with one flag written and every other bit kept (R10, R27). -/
def setFlag (f : StatusFlag) (b : Bool) (p : Byte) : Byte :=
  if b then p ||| (1#8 <<< f.bit) else p &&& ~~~(1#8 <<< f.bit)

/-- `SetNZ(v)` (R133): Z from `v = 0`, N from bit 7 of v. -/
def setNZ (v p : Byte) : Byte := setFlag .n v.msb (setFlag .z (v == 0) p)

/-- The byte PHP and BRK push: bits 5 and 4 set (R28). -/
def pushedStatus (p : Byte) : Byte := p ||| 0x30

/-- What PLP and RTI load into P from a pulled byte: bit 4 clear, bit 5 set (R28). -/
def pulledStatus (v : Byte) : Byte := (v &&& 0xCF) ||| 0x20

/-- The result of a computation of the ALU, with the carry and the overflow it gives. -/
structure AluResult where
  value    : Byte
  carry    : Bool
  overflow : Bool
deriving DecidableEq, Repr

/-- Binary addition with carry in (R181): the exact sum, narrowed; C when it exceeds 0xFF; V when both operands
differ in bit 7 from the result. -/
def addCarry (a m : Byte) (c : Bool) : AluResult :=
  let sum := a.toNat + m.toNat + c.toNat
  let r := BitVec.ofNat 8 sum
  { value := r
    carry := sum > 0xFF
    overflow := ((a ^^^ r) &&& (m ^^^ r) &&& 0x80) != 0 }

/-- Subtraction with borrow (R182): the addition of the complemented operand. -/
def subBorrow (a m : Byte) (c : Bool) : AluResult := addCarry a (m ^^^ 0xFF) c

/-- The status byte after ADC or SBC: C, V, then N and Z of the result (R181). -/
def addFlags (r : AluResult) (p : Byte) : Byte :=
  setNZ r.value (setFlag .v r.overflow (setFlag .c r.carry p))

/-- The status byte after a compare (R186): C when R is at least M as unsigned, N and Z from the wrapped difference. -/
def compareFlags (r m p : Byte) : Byte := setNZ (r - m) (setFlag .c (m ≤ r) p)

/-- The status byte after BIT (R190): Z from A and M, N and V from bits 7 and 6 of M. -/
def bitFlags (a m p : Byte) : Byte :=
  setFlag .v (m.getLsbD 6) (setFlag .n (m.getLsbD 7) (setFlag .z ((a &&& m) == 0) p))

/-- The result of a shift or a rotate: the byte and the bit shifted out (R200 to R203). -/
structure ShiftResult where
  value : Byte
  carry : Bool
deriving DecidableEq, Repr

/-- ASL (R200): bit 0 becomes 0. -/
def shiftLeft (v : Byte) (_c : Bool) : ShiftResult := ⟨v <<< 1, v.getLsbD 7⟩

/-- LSR (R201): bit 7 becomes 0. -/
def shiftRight (v : Byte) (_c : Bool) : ShiftResult := ⟨v >>> 1, v.getLsbD 0⟩

/-- ROL (R202): the old carry enters bit 0. -/
def rotateLeft (v : Byte) (c : Bool) : ShiftResult := ⟨(v <<< 1) ||| (BitVec.ofBool c).setWidth 8, v.getLsbD 7⟩

/-- ROR (R203): the old carry enters bit 7. -/
def rotateRight (v : Byte) (c : Bool) : ShiftResult :=
  ⟨(v >>> 1) ||| ((BitVec.ofBool c).setWidth 8 <<< 7), v.getLsbD 0⟩

/-- The status byte after a shift or a rotate: C from the bit shifted out, N and Z from the result. -/
def shiftFlags (r : ShiftResult) (p : Byte) : Byte := setNZ r.value (setFlag .c r.carry p)

/-- A flag of the state's P (R10). -/
def State.flag (s : State) (f : StatusFlag) : Bool := getFlag f s.p

end Sys2Proof.Machine
end

