-- ==== Sys2Proof/Machine/Memory.lean ====
section
/-! DEFINITION. The memory space (20_memory.md): mirroring, the byte cells and their canonical form. -/

namespace Sys2Proof.Machine

/-- The canonical address of an address (R52): RAM is mirrored through 0x1FFF, the 8 PPU-style registers through
0x3FFF, and every other address is itself. -/
def canon (a : Word) : Word :=
  if a ≤ 0x1FFF#16 then a &&& 0x07FF#16
  else if a ≤ 0x3FFF#16 then 0x2000#16 ||| (a &&& 0x0007#16)
  else a

/-- The device windows, by canonical address: 0x2000 to 0x2007 and 0x4000 to 0x401F (R51, R55). -/
def isDeviceCell (c : Word) : Bool :=
  (0x2000#16 ≤ c && c ≤ 0x2007#16) || (0x4000#16 ≤ c && c ≤ 0x401F#16)

/-- The numbers that are canonical addresses: 2,048 RAM cells, 8 register cells, and 0x4000 to 0xFFFF (R52). -/
def isCanonical (k : Nat) : Bool :=
  k < 0x800 || (0x2000 ≤ k && k < 0x2008) || (0x4000 ≤ k && k < 0x10000)

/-- What a cell that is not listed reads as (DESIGN CHOICE, notes/assumptions/2.md). Any contents can be listed, so
the choice shows only in a memory one writes down, such as the one of `State.reset`. -/
def Memory.unlisted : Byte := 0x00

/-- The byte of a cell. -/
def Memory.read (m : Memory) (k : Nat) : Byte :=
  match m with
  | [] => Memory.unlisted
  | (b, v) :: t => if b = k then v else Memory.read t k

/-- Takes a cell out of the list. -/
def Memory.erase (m : Memory) (k : Nat) : Memory := m.filter (fun c => c.1 != k)

/-- Puts an entry in its place in a rising list. -/
def Memory.insert (m : Memory) (k : Nat) (v : Byte) : Memory :=
  match m with
  | [] => [(k, v)]
  | (b, w) :: t => if k < b then (k, v) :: (b, w) :: t else (b, w) :: Memory.insert t k v

/-- Sets the byte of a cell (R54), keeping the canonical form: the byte an unlisted cell reads as is not listed. -/
def Memory.write (m : Memory) (k : Nat) (v : Byte) : Memory :=
  if v = Memory.unlisted then Memory.erase m k else Memory.insert (Memory.erase m k) k v

/-- The canonical form: addresses strictly rising, each one canonical, and no entry an unlisted cell would read as. -/
abbrev Memory.wf (m : Memory) : Prop :=
  m.Pairwise (fun c d => c.1 < d.1) ∧ ∀ c ∈ m, isCanonical c.1 = true ∧ c.2 ≠ Memory.unlisted

/-- The copy of a load (R292): stores bytes one after the other, in increasing address order, at the canonical cells,
as plain bytes whatever `IO_MODEL` is. -/
def Memory.copy (m : Memory) (a : Word) : List Byte → Memory
  | [] => m
  | b :: bs => Memory.copy (Memory.write m (canon a).toNat b) (a + 1) bs

/-- The byte of the cell an address names, read without the device windows: R53 under `IO_MODEL = ram`. -/
def State.peek (s : State) (a : Word) : Byte := Memory.read s.mem (canon a).toNat

/-- Whether an access to an address goes to the device oracle (R55). -/
def State.atDevice (s : State) (a : Word) : Bool := s.params.ioModel == .oracle && isDeviceCell (canon a)

/-- `MemRead(addr, 1)` (R53): the cell of the canonical address. Under `IO_MODEL = oracle` a device window gives the
next free draw instead (R55). -/
def State.memRead (s : State) (a : Word) : Byte × State :=
  (if s.atDevice a then Config.ioDraw s.ioReads else s.peek a,
   { s with ioReads := if s.atDevice a then s.ioReads + 1 else s.ioReads })

/-- `MemWrite(addr, 1, v)` (R54): sets the cell of the canonical address and no other. Under `IO_MODEL = oracle` a
write to a device window is recorded as an event and changes no cell (R55). -/
def State.memWrite (s : State) (a : Word) (v : Byte) : State :=
  { s with
    mem := if s.atDevice a then s.mem else Memory.write s.mem (canon a).toNat v
    ioWrites := if s.atDevice a then s.ioWrites ++ [⟨canon a, v⟩] else s.ioWrites }

end Sys2Proof.Machine
end

