-- ==== Sys2Proof/Machine/Ops.lean ====
section
/-! DEFINITION. The shared operations: 16-bit reads, the stack page arbiter (20_memory.md R58 to R60, R70 to R76),
taking the one vectored exception and returning from it (42_control.md R153, R154), and the halts
(60_exceptions.md R260 to R263). -/

namespace Sys2Proof.Machine

/-- What an instruction answers. -/
abbrev Result := Host.Outcome State Fault Refusal

/-- `zext_16` (R9). -/
def zext16 (v : Byte) : Word := v.setWidth 16

/-- `sext_16` (R9): the 16-bit two's-complement value of a byte. -/
def sext16 (v : Byte) : Word := if v < 0x80#8 then v.setWidth 16 else v.setWidth 16 + 0xFF00#16

/-- Two byte reads, in order, as a 16-bit value: the low byte's cell first. -/
def State.readPair (s : State) (lo hi : Word) : Word × State :=
  let l := s.memRead lo
  let h := l.2.memRead hi
  (joinBytes l.1 h.1, h.2)

/-- `Read16` (R58): little-endian, wrapping from 0xFFFF to 0x0000. -/
def State.read16 (s : State) (a : Word) : Word × State := s.readPair a (a + 1)

/-- `ReadZP16` (R59): the pointer's high byte wraps within the zero page. -/
def State.readZp16 (s : State) (p : Byte) : Word × State := s.readPair (zext16 p) (zext16 (p + 1))

/-- `Read16PageWrap` (R60): with `JMP_IND_PAGE_WRAP` the high byte comes from the same page. -/
def State.read16PageWrap (s : State) (a : Word) : Word × State :=
  if s.params.jmpIndPageWrap then s.readPair a ((a &&& 0xFF00#16) ||| ((a + 1) &&& 0x00FF#16)) else s.read16 a

/-- The address S designates (R70): in page 0x01. -/
def stackAddr (sp : Byte) : Word := 0x0100#16 ||| zext16 sp

/-- Whether a push (S = 0x00) or a pop (S = 0xFF) would wrap S (R74). -/
def StackKind.wraps (k : StackKind) (sp : Byte) : Bool :=
  match k with
  | .push => sp == 0x00
  | .pop => sp == 0xFF

/-- Whether the access raises StackBoundary (R75). -/
def State.stackFaults (s : State) (k : StackKind) : Bool := s.params.stackPolicy == .fault && k.wraps s.sp

/-- Emits the diagnostic of an access that wraps S, tagged with the opcode address (R74). -/
def State.emit (s : State) (k : StackKind) (a0 : Word) : State :=
  { s with diags := if k.wraps s.sp then s.diags ++ [⟨k, a0⟩] else s.diags }

/-- `Push(v)` (R71), in the instruction whose opcode is at `a0`; an error is a raised StackBoundary. -/
def State.push (s : State) (a0 : Word) (v : Byte) : Except StackKind State :=
  if s.stackFaults .push then .error .push
  else .ok { (s.emit .push a0).memWrite (stackAddr s.sp) v with sp := s.sp - 1 }

/-- `Pop()` (R72), in the instruction whose opcode is at `a0`; an error is a raised StackBoundary. -/
def State.pop (s : State) (a0 : Word) : Except StackKind (Byte × State) :=
  if s.stackFaults .pop then .error .pop
  else .ok ({ s.emit .pop a0 with sp := s.sp + 1 }.memRead (stackAddr (s.sp + 1)))

/-- `Push16(v)` (R76): the high byte first. -/
def State.push16 (s : State) (a0 v : Word) : Except StackKind State :=
  match s.push a0 (hiByte v) with
  | .error k => .error k
  | .ok s1 => s1.push a0 (loByte v)

/-- `Pop16()` (R76): the low byte first. -/
def State.pop16 (s : State) (a0 : Word) : Except StackKind (Word × State) :=
  match s.pop a0 with
  | .error k => .error k
  | .ok lo =>
    match lo.2.pop a0 with
    | .error k => .error k
    | .ok hi => .ok (joinBytes lo.1 hi.1, hi.2)

/-- The opcode address of the instruction a handler runs: PC holds it +16 the length throughout the handler (R25). -/
def State.opcodeAddr (s : State) (length : Nat) : Word := s.pc - BitVec.ofNat 16 length

/-- The halt of `STACK_POLICY = fault` (R75, R263): of the state the handler started in everything is kept, PC goes
back to the opcode address, and the loop is Halted. -/
def State.abandon (s : State) (k : StackKind) (a0 : Word) : State :=
  { s with pc := a0, run := .halted (.stackBoundary k a0) }

/-- The end of a handler that uses the stack: its state, or, where it raised StackBoundary, the instruction is
abandoned with all its changes undone (R75). -/
def State.settle (s : State) (a0 : Word) (r : Except StackKind State) : Result :=
  match r with
  | .ok t => .next t
  | .error k => .next (s.abandon k a0)

/-- The halt of an unmapped opcode (R123, R261), in the state the opcode fetch leaves. -/
def State.haltUnmapped (s : State) (op : Byte) (a0 : Word) : State :=
  { s with run := .halted (.unmappedOpcode op a0) }

/-- The return address BRK pushes (R153): PC, at the handler `a0 +16 1`, plus 1, so that one padding byte is skipped. -/
def State.breakReturn (s : State) : Word := s.pc + 1

/-- The vector BRK reads (R63, R153). -/
def breakVector : Word := 0xFFFE

/-- TAKING THE EXCEPTION (R153, R270: the only vectored entry is BRK): pushes the return address, high byte first,
then P with bits 5 and 4 set, sets I, and loads PC from the vector. -/
def State.takeBreak (s : State) (a0 : Word) : Except StackKind State :=
  match s.push16 a0 s.breakReturn with
  | .error k => .error k
  | .ok s1 =>
    match s1.push a0 (pushedStatus s1.p) with
    | .error k => .error k
    | .ok s2 =>
      let s3 := { s2 with p := setFlag .i true s2.p }
      let t := s3.read16 breakVector
      .ok { t.2 with pc := t.1 }

/-- RETURNING FROM IT (R154): pulls P, its bits 5 and 4 forced, then PC, low byte first, with no +1. -/
def State.returnFromBreak (s : State) (a0 : Word) : Except StackKind State :=
  match s.pop a0 with
  | .error k => .error k
  | .ok v =>
    match { v.2 with p := pulledStatus v.1 }.pop16 a0 with
    | .error k => .error k
    | .ok t => .ok { t.2 with pc := t.1 }

end Sys2Proof.Machine
end

