-- ==== Sys2Proof/Machine/Operands.lean ====
section
/-! DEFINITION. The addressing-mode resolver (30_encoding.md R86 to R100) and the operand helpers (R101). A handler
starts with PC past the whole instruction, so the resolver's reads left are those of pointers. -/

namespace Sys2Proof.Machine

/-- The effective address of a memory form (R90 to R95, R97, R98). -/
def effAddr (m : MemForm) (s : State) : Word × State :=
  match m with
  | .zp z => (zext16 z, s)
  | .zpx z => (zext16 (z + s.x), s)
  | .zpy z => (zext16 (z + s.y), s)
  | .abs a => (a, s)
  | .abx a => (a + zext16 s.x, s)
  | .aby a => (a + zext16 s.y, s)
  | .izx z => s.readZp16 (z + s.x)
  | .izy z =>
    let base := s.readZp16 z
    (base.1 + zext16 base.2.y, base.2)

/-- The target of an indirect jump (R96). -/
def indirectTarget (ptr : Word) (s : State) : Word × State := s.read16PageWrap ptr

/-- The target of a branch (R99): PC, past the branch, plus the signed offset. -/
def branchTarget (off : Byte) (s : State) : Word := s.pc + sext16 off

/-- What the resolver returns (R86). -/
inductive Resolved where
  | none
  | acc
  | imm (v : Byte)
  | addr (ea : Word)
  | target (t : Word)
deriving DecidableEq, Repr

/-- The resolver (R86 to R99): the operand form of an addressing mode, once the operand bytes are read. It never
reads the operand at the effective address. -/
def resolve (f : Form) (s : State) : Resolved × State :=
  match f with
  | .imp => (.none, s)
  | .acc => (.acc, s)
  | .imm v => (.imm v, s)
  | .mem m =>
    let r := effAddr m s
    (.addr r.1, r.2)
  | .ind ptr =>
    let r := indirectTarget ptr s
    (.addr r.1, r.2)
  | .rel off => (.target (branchTarget off s), s)

/-- `ReadOperand()` of a reading instruction (R101). -/
def readSource (src : Source) (s : State) : Byte × State :=
  match src with
  | .imm v => (v, s)
  | .mem m =>
    let r := effAddr m s
    r.2.memRead r.1

/-- A resolved place of a read-modify-write instruction: A, or an effective address. -/
inductive Loc where
  | acc
  | addr (ea : Word)
deriving DecidableEq, Repr

/-- Resolves a place, once (R101). -/
def resolvePlace (pl : Place) (s : State) : Loc × State :=
  match pl with
  | .acc => (.acc, s)
  | .mem m =>
    let r := effAddr m s
    (.addr r.1, r.2)

/-- `ReadOperand()` at a resolved place (R101). -/
def State.readLoc (s : State) (l : Loc) : Byte × State :=
  match l with
  | .acc => (s.a, s)
  | .addr ea => s.memRead ea

/-- `WriteOperand(v)` at a resolved place (R101). -/
def State.writeLoc (s : State) (l : Loc) (v : Byte) : State :=
  match l with
  | .acc => { s with a := v }
  | .addr ea => s.memWrite ea v

/-- The length of an instruction with a reading operand (R80). -/
def sourceLength (src : Source) : Nat := 1 + src.form.mode.operandBytes

end Sys2Proof.Machine
end

