-- ==== Sys2Proof/Machine/Arith.lean ====
section
/-! DEFINITION. ADC, SBC, the logic instructions, the compares and BIT (45_alu.md R180 to R191). -/

namespace Sys2Proof.Machine

/-- Whether an ADC or an SBC is refused: `DECIMAL_MODE = refuse` with D = 1 (R181, R264). -/
def State.refusesDecimal (s : State) : Bool := s.params.decimalMode == .refuse && s.flag .d

/-- ADC (R181): A takes A + M + C, and N, V, Z and C are written. -/
def adc (src : Source) (s : State) : Result :=
  if s.refusesDecimal then .refused (.decimalArithmetic (s.opcodeAddr (sourceLength src)))
  else
    let m := readSource src s
    let r := addCarry m.2.a m.1 (m.2.flag .c)
    .next { m.2 with a := r.value, p := addFlags r m.2.p }

/-- SBC (R182): A takes A - M - (1 - C), and N, V, Z and C are written. -/
def sbc (src : Source) (s : State) : Result :=
  if s.refusesDecimal then .refused (.decimalArithmetic (s.opcodeAddr (sourceLength src)))
  else
    let m := readSource src s
    let r := subBorrow m.2.a m.1 (m.2.flag .c)
    .next { m.2 with a := r.value, p := addFlags r m.2.p }

/-- AND, ORA and EOR (R183 to R185): A takes `op A M`, N and Z its value. -/
def logicA (op : Byte → Byte → Byte) (src : Source) (s : State) : Result :=
  let m := readSource src s
  let r := op m.2.a m.1
  .next { m.2 with a := r, p := setNZ r m.2.p }

/-- CMP, CPX and CPY (R186 to R189): only N, Z and C are written. -/
def compareWith (reg : Byte) (src : Source) (s : State) : Result :=
  let m := readSource src s
  .next { m.2 with p := compareFlags reg m.1 m.2.p }

/-- BIT (R190): only N, V and Z are written. -/
def bitTest (src : Source) (s : State) : Result :=
  let m := readSource src s
  .next { m.2 with p := bitFlags m.2.a m.1 m.2.p }

/-- ADC (zp,X), opcode 0x61 (R181, R97). -/
def execAdcIzx (z : Byte) (s : State) : Result := adc (.mem (.izx z)) s

/-- ADC Zero Page, opcode 0x65 (R181, R90). -/
def execAdcZp (z : Byte) (s : State) : Result := adc (.mem (.zp z)) s

/-- ADC Immediate, opcode 0x69 (R181, R89). -/
def execAdcImm (v : Byte) (s : State) : Result := adc (.imm v) s

/-- ADC Absolute, opcode 0x6D (R181, R93). -/
def execAdcAbs (a : Word) (s : State) : Result := adc (.mem (.abs a)) s

/-- ADC (zp),Y, opcode 0x71 (R181, R98). -/
def execAdcIzy (z : Byte) (s : State) : Result := adc (.mem (.izy z)) s

/-- ADC Zero Page,X, opcode 0x75 (R181, R91). -/
def execAdcZpx (z : Byte) (s : State) : Result := adc (.mem (.zpx z)) s

/-- ADC Absolute,Y, opcode 0x79 (R181, R95). -/
def execAdcAby (a : Word) (s : State) : Result := adc (.mem (.aby a)) s

/-- ADC Absolute,X, opcode 0x7D (R181, R94). -/
def execAdcAbx (a : Word) (s : State) : Result := adc (.mem (.abx a)) s

/-- SBC (zp,X), opcode 0xE1 (R182, R97). -/
def execSbcIzx (z : Byte) (s : State) : Result := sbc (.mem (.izx z)) s

/-- SBC Zero Page, opcode 0xE5 (R182, R90). -/
def execSbcZp (z : Byte) (s : State) : Result := sbc (.mem (.zp z)) s

/-- SBC Immediate, opcode 0xE9 (R182, R89). -/
def execSbcImm (v : Byte) (s : State) : Result := sbc (.imm v) s

/-- SBC Absolute, opcode 0xED (R182, R93). -/
def execSbcAbs (a : Word) (s : State) : Result := sbc (.mem (.abs a)) s

/-- SBC (zp),Y, opcode 0xF1 (R182, R98). -/
def execSbcIzy (z : Byte) (s : State) : Result := sbc (.mem (.izy z)) s

/-- SBC Zero Page,X, opcode 0xF5 (R182, R91). -/
def execSbcZpx (z : Byte) (s : State) : Result := sbc (.mem (.zpx z)) s

/-- SBC Absolute,Y, opcode 0xF9 (R182, R95). -/
def execSbcAby (a : Word) (s : State) : Result := sbc (.mem (.aby a)) s

/-- SBC Absolute,X, opcode 0xFD (R182, R94). -/
def execSbcAbx (a : Word) (s : State) : Result := sbc (.mem (.abx a)) s

/-- AND (zp,X), opcode 0x21 (R183, R97). -/
def execAndIzx (z : Byte) (s : State) : Result := logicA (· &&& ·) (.mem (.izx z)) s

/-- AND Zero Page, opcode 0x25 (R183, R90). -/
def execAndZp (z : Byte) (s : State) : Result := logicA (· &&& ·) (.mem (.zp z)) s

/-- AND Immediate, opcode 0x29 (R183, R89). -/
def execAndImm (v : Byte) (s : State) : Result := logicA (· &&& ·) (.imm v) s

/-- AND Absolute, opcode 0x2D (R183, R93). -/
def execAndAbs (a : Word) (s : State) : Result := logicA (· &&& ·) (.mem (.abs a)) s

/-- AND (zp),Y, opcode 0x31 (R183, R98). -/
def execAndIzy (z : Byte) (s : State) : Result := logicA (· &&& ·) (.mem (.izy z)) s

/-- AND Zero Page,X, opcode 0x35 (R183, R91). -/
def execAndZpx (z : Byte) (s : State) : Result := logicA (· &&& ·) (.mem (.zpx z)) s

/-- AND Absolute,Y, opcode 0x39 (R183, R95). -/
def execAndAby (a : Word) (s : State) : Result := logicA (· &&& ·) (.mem (.aby a)) s

/-- AND Absolute,X, opcode 0x3D (R183, R94). -/
def execAndAbx (a : Word) (s : State) : Result := logicA (· &&& ·) (.mem (.abx a)) s

/-- ORA (zp,X), opcode 0x01 (R184, R97). -/
def execOraIzx (z : Byte) (s : State) : Result := logicA (· ||| ·) (.mem (.izx z)) s

/-- ORA Zero Page, opcode 0x05 (R184, R90). -/
def execOraZp (z : Byte) (s : State) : Result := logicA (· ||| ·) (.mem (.zp z)) s

/-- ORA Immediate, opcode 0x09 (R184, R89). -/
def execOraImm (v : Byte) (s : State) : Result := logicA (· ||| ·) (.imm v) s

/-- ORA Absolute, opcode 0x0D (R184, R93). -/
def execOraAbs (a : Word) (s : State) : Result := logicA (· ||| ·) (.mem (.abs a)) s

/-- ORA (zp),Y, opcode 0x11 (R184, R98). -/
def execOraIzy (z : Byte) (s : State) : Result := logicA (· ||| ·) (.mem (.izy z)) s

/-- ORA Zero Page,X, opcode 0x15 (R184, R91). -/
def execOraZpx (z : Byte) (s : State) : Result := logicA (· ||| ·) (.mem (.zpx z)) s

/-- ORA Absolute,Y, opcode 0x19 (R184, R95). -/
def execOraAby (a : Word) (s : State) : Result := logicA (· ||| ·) (.mem (.aby a)) s

/-- ORA Absolute,X, opcode 0x1D (R184, R94). -/
def execOraAbx (a : Word) (s : State) : Result := logicA (· ||| ·) (.mem (.abx a)) s

/-- EOR (zp,X), opcode 0x41 (R185, R97). -/
def execEorIzx (z : Byte) (s : State) : Result := logicA (· ^^^ ·) (.mem (.izx z)) s

/-- EOR Zero Page, opcode 0x45 (R185, R90). -/
def execEorZp (z : Byte) (s : State) : Result := logicA (· ^^^ ·) (.mem (.zp z)) s

/-- EOR Immediate, opcode 0x49 (R185, R89). -/
def execEorImm (v : Byte) (s : State) : Result := logicA (· ^^^ ·) (.imm v) s

/-- EOR Absolute, opcode 0x4D (R185, R93). -/
def execEorAbs (a : Word) (s : State) : Result := logicA (· ^^^ ·) (.mem (.abs a)) s

/-- EOR (zp),Y, opcode 0x51 (R185, R98). -/
def execEorIzy (z : Byte) (s : State) : Result := logicA (· ^^^ ·) (.mem (.izy z)) s

/-- EOR Zero Page,X, opcode 0x55 (R185, R91). -/
def execEorZpx (z : Byte) (s : State) : Result := logicA (· ^^^ ·) (.mem (.zpx z)) s

/-- EOR Absolute,Y, opcode 0x59 (R185, R95). -/
def execEorAby (a : Word) (s : State) : Result := logicA (· ^^^ ·) (.mem (.aby a)) s

/-- EOR Absolute,X, opcode 0x5D (R185, R94). -/
def execEorAbx (a : Word) (s : State) : Result := logicA (· ^^^ ·) (.mem (.abx a)) s

/-- CMP (zp,X), opcode 0xC1 (R187, R97). -/
def execCmpIzx (z : Byte) (s : State) : Result := compareWith s.a (.mem (.izx z)) s

/-- CMP Zero Page, opcode 0xC5 (R187, R90). -/
def execCmpZp (z : Byte) (s : State) : Result := compareWith s.a (.mem (.zp z)) s

/-- CMP Immediate, opcode 0xC9 (R187, R89). -/
def execCmpImm (v : Byte) (s : State) : Result := compareWith s.a (.imm v) s

/-- CMP Absolute, opcode 0xCD (R187, R93). -/
def execCmpAbs (a : Word) (s : State) : Result := compareWith s.a (.mem (.abs a)) s

/-- CMP (zp),Y, opcode 0xD1 (R187, R98). -/
def execCmpIzy (z : Byte) (s : State) : Result := compareWith s.a (.mem (.izy z)) s

/-- CMP Zero Page,X, opcode 0xD5 (R187, R91). -/
def execCmpZpx (z : Byte) (s : State) : Result := compareWith s.a (.mem (.zpx z)) s

/-- CMP Absolute,Y, opcode 0xD9 (R187, R95). -/
def execCmpAby (a : Word) (s : State) : Result := compareWith s.a (.mem (.aby a)) s

/-- CMP Absolute,X, opcode 0xDD (R187, R94). -/
def execCmpAbx (a : Word) (s : State) : Result := compareWith s.a (.mem (.abx a)) s

/-- CPX Immediate, opcode 0xE0 (R188, R89). -/
def execCpxImm (v : Byte) (s : State) : Result := compareWith s.x (.imm v) s

/-- CPX Zero Page, opcode 0xE4 (R188, R90). -/
def execCpxZp (z : Byte) (s : State) : Result := compareWith s.x (.mem (.zp z)) s

/-- CPX Absolute, opcode 0xEC (R188, R93). -/
def execCpxAbs (a : Word) (s : State) : Result := compareWith s.x (.mem (.abs a)) s

/-- CPY Immediate, opcode 0xC0 (R189, R89). -/
def execCpyImm (v : Byte) (s : State) : Result := compareWith s.y (.imm v) s

/-- CPY Zero Page, opcode 0xC4 (R189, R90). -/
def execCpyZp (z : Byte) (s : State) : Result := compareWith s.y (.mem (.zp z)) s

/-- CPY Absolute, opcode 0xCC (R189, R93). -/
def execCpyAbs (a : Word) (s : State) : Result := compareWith s.y (.mem (.abs a)) s

/-- BIT Zero Page, opcode 0x24 (R190, R90). -/
def execBitZp (z : Byte) (s : State) : Result := bitTest (.mem (.zp z)) s

/-- BIT Absolute, opcode 0x2C (R190, R93). -/
def execBitAbs (a : Word) (s : State) : Result := bitTest (.mem (.abs a)) s

end Sys2Proof.Machine
end

