-- ==== Sys2Proof/Machine/Branch.lean ====
section
/-! DEFINITION. The conditional branches (41_branches.md R140 to R148). -/

namespace Sys2Proof.Machine

/-- A branch (R140): PC takes the target when the condition holds, and nothing else changes. -/
def branchIf (cond : Bool) (off : Byte) (s : State) : Result :=
  .next { s with pc := if cond then branchTarget off s else s.pc }

/-- BPL Relative, opcode 0x10 (R141, R99). -/
def execBpl (off : Byte) (s : State) : Result := branchIf (!s.flag .n) off s

/-- BMI Relative, opcode 0x30 (R142, R99). -/
def execBmi (off : Byte) (s : State) : Result := branchIf (s.flag .n) off s

/-- BVC Relative, opcode 0x50 (R143, R99). -/
def execBvc (off : Byte) (s : State) : Result := branchIf (!s.flag .v) off s

/-- BVS Relative, opcode 0x70 (R144, R99). -/
def execBvs (off : Byte) (s : State) : Result := branchIf (s.flag .v) off s

/-- BCC Relative, opcode 0x90 (R145, R99). -/
def execBcc (off : Byte) (s : State) : Result := branchIf (!s.flag .c) off s

/-- BCS Relative, opcode 0xB0 (R146, R99). -/
def execBcs (off : Byte) (s : State) : Result := branchIf (s.flag .c) off s

/-- BNE Relative, opcode 0xD0 (R147, R99). -/
def execBne (off : Byte) (s : State) : Result := branchIf (!s.flag .z) off s

/-- BEQ Relative, opcode 0xF0 (R148, R99). -/
def execBeq (off : Byte) (s : State) : Result := branchIf (s.flag .z) off s

end Sys2Proof.Machine
end

