-- ==== Sys2Proof/Machine/Control.lean ====
section
/-! DEFINITION. Jumps, subroutines, BRK and RTI (42_control.md R150 to R155). -/

namespace Sys2Proof.Machine

/-- JMP (R150): PC takes the target. -/
def jumpTo (target : Word × State) : Result := .next { target.2 with pc := target.1 }

/-- JSR (R151), from the opcode address: pushes the return address minus 1, high byte first, then jumps. -/
def State.callSubroutine (s : State) (a0 target : Word) : Except StackKind State :=
  match s.push16 a0 (s.pc - 1) with
  | .error k => .error k
  | .ok t => .ok { t with pc := target }

/-- RTS (R152): pops the return address minus 1, low byte first, and adds 1. -/
def State.returnFromSubroutine (s : State) (a0 : Word) : Except StackKind State :=
  match s.pop16 a0 with
  | .error k => .error k
  | .ok t => .ok { t.2 with pc := t.1 + 1 }

/-- JMP Absolute, opcode 0x4C (R150, R93). -/
def execJmpAbs (a : Word) (s : State) : Result := jumpTo (a, s)

/-- JMP Indirect, opcode 0x6C (R150, R96). -/
def execJmpInd (ptr : Word) (s : State) : Result := jumpTo (indirectTarget ptr s)

/-- JSR Absolute, opcode 0x20 (R151, R93). -/
def execJsr (a : Word) (s : State) : Result := s.settle (s.opcodeAddr 3) (s.callSubroutine (s.opcodeAddr 3) a)

/-- RTS Implicit, opcode 0x60 (R152, R87). -/
def execRts (s : State) : Result := s.settle (s.opcodeAddr 1) (s.returnFromSubroutine (s.opcodeAddr 1))

/-- BRK Implicit, opcode 0x00 (R153, R87). -/
def execBrk (s : State) : Result := s.settle (s.opcodeAddr 1) (s.takeBreak (s.opcodeAddr 1))

/-- RTI Implicit, opcode 0x40 (R154, R87). -/
def execRti (s : State) : Result := s.settle (s.opcodeAddr 1) (s.returnFromBreak (s.opcodeAddr 1))

end Sys2Proof.Machine
end

