-- ==== Sys2Proof/Machine/FlagOps.lean ====
section
/-! DEFINITION. Flag instructions and NOP (44_flags_nop.md R170 to R177). -/

namespace Sys2Proof.Machine

/-- Sets or clears exactly one flag (R170 to R176). -/
def writeFlag (f : StatusFlag) (b : Bool) (s : State) : Result := .next { s with p := setFlag f b s.p }

/-- CLC Implicit, opcode 0x18 (R170, R87). -/
def execClc (s : State) : Result := writeFlag .c false s

/-- SEC Implicit, opcode 0x38 (R171, R87). -/
def execSec (s : State) : Result := writeFlag .c true s

/-- CLI Implicit, opcode 0x58 (R172, R87). -/
def execCli (s : State) : Result := writeFlag .i false s

/-- SEI Implicit, opcode 0x78 (R173, R87). -/
def execSei (s : State) : Result := writeFlag .i true s

/-- CLV Implicit, opcode 0xB8 (R174, R87). -/
def execClv (s : State) : Result := writeFlag .v false s

/-- CLD Implicit, opcode 0xD8 (R175, R87). -/
def execCld (s : State) : Result := writeFlag .d false s

/-- SED Implicit, opcode 0xF8 (R176, R87). -/
def execSed (s : State) : Result := writeFlag .d true s

/-- NOP Implicit, opcode 0xEA (R177, R87). -/
def execNop (s : State) : Result := .next s

end Sys2Proof.Machine
end

