-- ==== Sys2Proof/Machine/LoadStore.lean ====
section
/-! DEFINITION. Loads and stores (43_load_store.md R160 to R165). Every access is one byte. -/

namespace Sys2Proof.Machine

/-- LDA (R160): A takes the operand, N and Z its value. -/
def lda (src : Source) (s : State) : Result :=
  let m := readSource src s
  .next { m.2 with a := m.1, p := setNZ m.1 m.2.p }

/-- LDX (R161): X takes the operand, N and Z its value. -/
def ldx (src : Source) (s : State) : Result :=
  let m := readSource src s
  .next { m.2 with x := m.1, p := setNZ m.1 m.2.p }

/-- LDY (R162): Y takes the operand, N and Z its value. -/
def ldy (src : Source) (s : State) : Result :=
  let m := readSource src s
  .next { m.2 with y := m.1, p := setNZ m.1 m.2.p }

/-- A store (R163 to R165): `WriteOperand(v)` at the effective address, which is not read. No flag is written. -/
def store (m : MemForm) (v : Byte) (s : State) : Result :=
  let r := effAddr m s
  .next (r.2.memWrite r.1 v)

/-- LDA (zp,X), opcode 0xA1 (R160, R97). -/
def execLdaIzx (z : Byte) (s : State) : Result := lda (.mem (.izx z)) s

/-- LDA Zero Page, opcode 0xA5 (R160, R90). -/
def execLdaZp (z : Byte) (s : State) : Result := lda (.mem (.zp z)) s

/-- LDA Immediate, opcode 0xA9 (R160, R89). -/
def execLdaImm (v : Byte) (s : State) : Result := lda (.imm v) s

/-- LDA Absolute, opcode 0xAD (R160, R93). -/
def execLdaAbs (a : Word) (s : State) : Result := lda (.mem (.abs a)) s

/-- LDA (zp),Y, opcode 0xB1 (R160, R98). -/
def execLdaIzy (z : Byte) (s : State) : Result := lda (.mem (.izy z)) s

/-- LDA Zero Page,X, opcode 0xB5 (R160, R91). -/
def execLdaZpx (z : Byte) (s : State) : Result := lda (.mem (.zpx z)) s

/-- LDA Absolute,Y, opcode 0xB9 (R160, R95). -/
def execLdaAby (a : Word) (s : State) : Result := lda (.mem (.aby a)) s

/-- LDA Absolute,X, opcode 0xBD (R160, R94). -/
def execLdaAbx (a : Word) (s : State) : Result := lda (.mem (.abx a)) s

/-- LDX Immediate, opcode 0xA2 (R161, R89). -/
def execLdxImm (v : Byte) (s : State) : Result := ldx (.imm v) s

/-- LDX Zero Page, opcode 0xA6 (R161, R90). -/
def execLdxZp (z : Byte) (s : State) : Result := ldx (.mem (.zp z)) s

/-- LDX Absolute, opcode 0xAE (R161, R93). -/
def execLdxAbs (a : Word) (s : State) : Result := ldx (.mem (.abs a)) s

/-- LDX Zero Page,Y, opcode 0xB6 (R161, R92). -/
def execLdxZpy (z : Byte) (s : State) : Result := ldx (.mem (.zpy z)) s

/-- LDX Absolute,Y, opcode 0xBE (R161, R95). -/
def execLdxAby (a : Word) (s : State) : Result := ldx (.mem (.aby a)) s

/-- LDY Immediate, opcode 0xA0 (R162, R89). -/
def execLdyImm (v : Byte) (s : State) : Result := ldy (.imm v) s

/-- LDY Zero Page, opcode 0xA4 (R162, R90). -/
def execLdyZp (z : Byte) (s : State) : Result := ldy (.mem (.zp z)) s

/-- LDY Absolute, opcode 0xAC (R162, R93). -/
def execLdyAbs (a : Word) (s : State) : Result := ldy (.mem (.abs a)) s

/-- LDY Zero Page,X, opcode 0xB4 (R162, R91). -/
def execLdyZpx (z : Byte) (s : State) : Result := ldy (.mem (.zpx z)) s

/-- LDY Absolute,X, opcode 0xBC (R162, R94). -/
def execLdyAbx (a : Word) (s : State) : Result := ldy (.mem (.abx a)) s

/-- STA (zp,X), opcode 0x81 (R163, R97). -/
def execStaIzx (z : Byte) (s : State) : Result := store (.izx z) s.a s

/-- STA Zero Page, opcode 0x85 (R163, R90). -/
def execStaZp (z : Byte) (s : State) : Result := store (.zp z) s.a s

/-- STA Absolute, opcode 0x8D (R163, R93). -/
def execStaAbs (a : Word) (s : State) : Result := store (.abs a) s.a s

/-- STA (zp),Y, opcode 0x91 (R163, R98). -/
def execStaIzy (z : Byte) (s : State) : Result := store (.izy z) s.a s

/-- STA Zero Page,X, opcode 0x95 (R163, R91). -/
def execStaZpx (z : Byte) (s : State) : Result := store (.zpx z) s.a s

/-- STA Absolute,Y, opcode 0x99 (R163, R95). -/
def execStaAby (a : Word) (s : State) : Result := store (.aby a) s.a s

/-- STA Absolute,X, opcode 0x9D (R163, R94). -/
def execStaAbx (a : Word) (s : State) : Result := store (.abx a) s.a s

/-- STX Zero Page, opcode 0x86 (R164, R90). -/
def execStxZp (z : Byte) (s : State) : Result := store (.zp z) s.x s

/-- STX Absolute, opcode 0x8E (R164, R93). -/
def execStxAbs (a : Word) (s : State) : Result := store (.abs a) s.x s

/-- STX Zero Page,Y, opcode 0x96 (R164, R92). -/
def execStxZpy (z : Byte) (s : State) : Result := store (.zpy z) s.x s

/-- STY Zero Page, opcode 0x84 (R165, R90). -/
def execStyZp (z : Byte) (s : State) : Result := store (.zp z) s.y s

/-- STY Absolute, opcode 0x8C (R165, R93). -/
def execStyAbs (a : Word) (s : State) : Result := store (.abs a) s.y s

/-- STY Zero Page,X, opcode 0x94 (R165, R91). -/
def execStyZpx (z : Byte) (s : State) : Result := store (.zpx z) s.y s

end Sys2Proof.Machine
end

