-- ==== Sys2Proof/Machine/ShiftIncDec.lean ====
section
/-! DEFINITION. Shifts, rotates, increments and decrements (46_shift_incdec.md R200 to R209). A memory form reads its operand once and writes it once. -/

namespace Sys2Proof.Machine

/-- ASL, LSR, ROL and ROR (R200 to R203): the place takes the shifted byte, C the bit shifted out, N and Z the
result. -/
def shift (op : Byte → Bool → ShiftResult) (pl : Place) (s : State) : Result :=
  let l := resolvePlace pl s
  let v := l.2.readLoc l.1
  let r := op v.1 (v.2.flag .c)
  let w := v.2.writeLoc l.1 r.value
  .next { w with p := shiftFlags r w.p }

/-- INC and DEC (R204, R205): the cell takes the changed byte, N and Z its value. -/
def modifyCell (op : Byte → Byte) (m : MemForm) (s : State) : Result :=
  let ea := effAddr m s
  let v := ea.2.memRead ea.1
  let r := op v.1
  let w := v.2.memWrite ea.1 r
  .next { w with p := setNZ r w.p }

/-- INX and DEX (R206, R208): X takes the new value, N and Z too. -/
def setX (v : Byte) (s : State) : Result := .next { s with x := v, p := setNZ v s.p }

/-- INY and DEY (R207, R209): Y takes the new value, N and Z too. -/
def setY (v : Byte) (s : State) : Result := .next { s with y := v, p := setNZ v s.p }

/-- ASL Zero Page, opcode 0x06 (R200, R90). -/
def execAslZp (z : Byte) (s : State) : Result := shift shiftLeft (.mem (.zp z)) s

/-- ASL Accumulator, opcode 0x0A (R200, R88). -/
def execAslAcc (s : State) : Result := shift shiftLeft .acc s

/-- ASL Absolute, opcode 0x0E (R200, R93). -/
def execAslAbs (a : Word) (s : State) : Result := shift shiftLeft (.mem (.abs a)) s

/-- ASL Zero Page,X, opcode 0x16 (R200, R91). -/
def execAslZpx (z : Byte) (s : State) : Result := shift shiftLeft (.mem (.zpx z)) s

/-- ASL Absolute,X, opcode 0x1E (R200, R94). -/
def execAslAbx (a : Word) (s : State) : Result := shift shiftLeft (.mem (.abx a)) s

/-- LSR Zero Page, opcode 0x46 (R201, R90). -/
def execLsrZp (z : Byte) (s : State) : Result := shift shiftRight (.mem (.zp z)) s

/-- LSR Accumulator, opcode 0x4A (R201, R88). -/
def execLsrAcc (s : State) : Result := shift shiftRight .acc s

/-- LSR Absolute, opcode 0x4E (R201, R93). -/
def execLsrAbs (a : Word) (s : State) : Result := shift shiftRight (.mem (.abs a)) s

/-- LSR Zero Page,X, opcode 0x56 (R201, R91). -/
def execLsrZpx (z : Byte) (s : State) : Result := shift shiftRight (.mem (.zpx z)) s

/-- LSR Absolute,X, opcode 0x5E (R201, R94). -/
def execLsrAbx (a : Word) (s : State) : Result := shift shiftRight (.mem (.abx a)) s

/-- ROL Zero Page, opcode 0x26 (R202, R90). -/
def execRolZp (z : Byte) (s : State) : Result := shift rotateLeft (.mem (.zp z)) s

/-- ROL Accumulator, opcode 0x2A (R202, R88). -/
def execRolAcc (s : State) : Result := shift rotateLeft .acc s

/-- ROL Absolute, opcode 0x2E (R202, R93). -/
def execRolAbs (a : Word) (s : State) : Result := shift rotateLeft (.mem (.abs a)) s

/-- ROL Zero Page,X, opcode 0x36 (R202, R91). -/
def execRolZpx (z : Byte) (s : State) : Result := shift rotateLeft (.mem (.zpx z)) s

/-- ROL Absolute,X, opcode 0x3E (R202, R94). -/
def execRolAbx (a : Word) (s : State) : Result := shift rotateLeft (.mem (.abx a)) s

/-- ROR Zero Page, opcode 0x66 (R203, R90). -/
def execRorZp (z : Byte) (s : State) : Result := shift rotateRight (.mem (.zp z)) s

/-- ROR Accumulator, opcode 0x6A (R203, R88). -/
def execRorAcc (s : State) : Result := shift rotateRight .acc s

/-- ROR Absolute, opcode 0x6E (R203, R93). -/
def execRorAbs (a : Word) (s : State) : Result := shift rotateRight (.mem (.abs a)) s

/-- ROR Zero Page,X, opcode 0x76 (R203, R91). -/
def execRorZpx (z : Byte) (s : State) : Result := shift rotateRight (.mem (.zpx z)) s

/-- ROR Absolute,X, opcode 0x7E (R203, R94). -/
def execRorAbx (a : Word) (s : State) : Result := shift rotateRight (.mem (.abx a)) s

/-- INC Zero Page, opcode 0xE6 (R204, R90). -/
def execIncZp (z : Byte) (s : State) : Result := modifyCell (· + 1) (.zp z) s

/-- INC Absolute, opcode 0xEE (R204, R93). -/
def execIncAbs (a : Word) (s : State) : Result := modifyCell (· + 1) (.abs a) s

/-- INC Zero Page,X, opcode 0xF6 (R204, R91). -/
def execIncZpx (z : Byte) (s : State) : Result := modifyCell (· + 1) (.zpx z) s

/-- INC Absolute,X, opcode 0xFE (R204, R94). -/
def execIncAbx (a : Word) (s : State) : Result := modifyCell (· + 1) (.abx a) s

/-- DEC Zero Page, opcode 0xC6 (R205, R90). -/
def execDecZp (z : Byte) (s : State) : Result := modifyCell (· - 1) (.zp z) s

/-- DEC Absolute, opcode 0xCE (R205, R93). -/
def execDecAbs (a : Word) (s : State) : Result := modifyCell (· - 1) (.abs a) s

/-- DEC Zero Page,X, opcode 0xD6 (R205, R91). -/
def execDecZpx (z : Byte) (s : State) : Result := modifyCell (· - 1) (.zpx z) s

/-- DEC Absolute,X, opcode 0xDE (R205, R94). -/
def execDecAbx (a : Word) (s : State) : Result := modifyCell (· - 1) (.abx a) s

/-- INX Implicit, opcode 0xE8 (R206, R87). -/
def execInx (s : State) : Result := setX (s.x + 1) s

/-- INY Implicit, opcode 0xC8 (R207, R87). -/
def execIny (s : State) : Result := setY (s.y + 1) s

/-- DEX Implicit, opcode 0xCA (R208, R87). -/
def execDex (s : State) : Result := setX (s.x - 1) s

/-- DEY Implicit, opcode 0x88 (R209, R87). -/
def execDey (s : State) : Result := setY (s.y - 1) s

end Sys2Proof.Machine
end

