-- ==== Sys2Proof/Machine/TransferStack.lean ====
section
/-! DEFINITION. Register transfers and stack instructions (47_transfer_stack.md R220 to R229). All are one byte long. -/

namespace Sys2Proof.Machine

/-- A transfer into A (R222, R223): N and Z take its value. -/
def transferA (v : Byte) (s : State) : Result := .next { s with a := v, p := setNZ v s.p }

/-- A push of one byte by a one-byte instruction (R226, R228). -/
def pushOne (v : Byte) (s : State) : Result :=
  let a0 := s.opcodeAddr 1
  s.settle a0 (s.push a0 v)

/-- A pull of one byte by a one-byte instruction (R227, R229): `f` says what the byte is loaded into. -/
def pullOne (f : Byte → State → State) (s : State) : Result :=
  let a0 := s.opcodeAddr 1
  match s.pop a0 with
  | .error k => s.settle a0 (.error k)
  | .ok v => s.settle a0 (.ok (f v.1 v.2))

/-- TAX Implicit, opcode 0xAA (R220, R87). -/
def execTax (s : State) : Result := setX s.a s

/-- TAY Implicit, opcode 0xA8 (R221, R87). -/
def execTay (s : State) : Result := setY s.a s

/-- TXA Implicit, opcode 0x8A (R222, R87). -/
def execTxa (s : State) : Result := transferA s.x s

/-- TYA Implicit, opcode 0x98 (R223, R87). -/
def execTya (s : State) : Result := transferA s.y s

/-- TSX Implicit, opcode 0xBA (R224, R87). -/
def execTsx (s : State) : Result := setX s.sp s

/-- TXS Implicit, opcode 0x9A (R225, R87). -/
def execTxs (s : State) : Result := .next { s with sp := s.x }

/-- PHA Implicit, opcode 0x48 (R226, R87). -/
def execPha (s : State) : Result := pushOne s.a s

/-- PLA Implicit, opcode 0x68 (R227, R87). -/
def execPla (s : State) : Result := pullOne (fun v t => { t with a := v, p := setNZ v t.p }) s

/-- PHP Implicit, opcode 0x08 (R228, R87). -/
def execPhp (s : State) : Result := pushOne (pushedStatus s.p) s

/-- PLP Implicit, opcode 0x28 (R229, R87). -/
def execPlp (s : State) : Result := pullOne (fun v t => { t with p := pulledStatus v }) s

end Sys2Proof.Machine
end

