-- ==== Sys2Proof/Machine/Fetch.lean ====
section
/-! DEFINITION. Fetching an instruction (40_dispatch.md R121 to R124): the opcode read, the table look-up, and the
operand bytes, each read once through the memory contract. -/

namespace Sys2Proof.Machine

/-- One read at PC, which moves past the byte (R122, R86). -/
def State.fetchByte (s : State) : Byte × State :=
  let b := s.memRead s.pc
  (b.1, { b.2 with pc := b.2.pc + 1 })

/-- What the fetch of an instruction gives. -/
inductive Fetched where
  /-- The opcode byte has no table entry; the state is the one the opcode fetch leaves (R123). -/
  | unmapped (op : Byte) (s : State)
  /-- The entry's base cycle count, the bytes as read, the instruction they are, and the state with PC at the next
  sequential instruction (R124). -/
  | decoded (cycles : Nat) (bytes : List Byte) (i : Instr) (s : State)

/-- Fetch, decode and the operand reads of the resolver (R121): no operand byte is read for an unmapped opcode. -/
def State.fetchInstr (s : State) : Fetched :=
  let op := s.fetchByte
  match lookup op.1 with
  | none => .unmapped op.1 op.2
  | some row =>
    match row.shape with
    | .none i => .decoded row.cycles [op.1] i op.2
    | .byte f =>
      let b := op.2.fetchByte
      .decoded row.cycles [op.1, b.1] (f b.1) b.2
    | .word f =>
      let lo := op.2.fetchByte
      let hi := lo.2.fetchByte
      .decoded row.cycles [op.1, lo.1, hi.1] (f (joinBytes lo.1 hi.1)) hi.2

/-- The state with the bytes of one instruction stored where the next fetch reads, and nothing that keeps the next step
from fetching: a session is loaded and the loop is Running. The bytes are stored as a load stores them (R292). -/
def State.placeInstr (s : State) (bytes : List Byte) : State :=
  { s with mem := Memory.copy s.mem s.pc bytes, run := .running, loaded := true }

end Sys2Proof.Machine
end

