-- ==== Sys2Proof/Machine/Trace.lean ====
section
/-! DEFINITION. The trace formatter and the conformance verifier (48_trace.md R240 to R255). -/

namespace Sys2Proof.Machine

/-- The trace record of a completed step (R126, R240): the opcode address, the bytes as fetched, the disassembly, and
A, X, Y, P and S before the instruction. -/
structure TraceRecord where
  addr  : Word
  bytes : List Byte
  text  : Line
  a     : Byte
  x     : Byte
  y     : Byte
  p     : Byte
  sp    : Byte
deriving DecidableEq, Repr

/-- An upper-case hexadecimal digit (R241). -/
def hexDigit (n : Nat) : Char := Char.ofNat (if n < 10 then 48 + n else 55 + n)

/-- `hex2(v)` (R241): `%02X`. -/
def hex2 (v : Byte) : Line := [hexDigit (v.toNat / 16), hexDigit (v.toNat % 16)]

/-- `hex4(v)` (R241): `%04X`. -/
def hex4 (w : Word) : Line := hex2 (hiByte w) ++ hex2 (loByte w)

/-- `pad(s, w)` (R241): s with spaces up to length w. -/
def pad (l : Line) (w : Nat) : Line := l ++ List.replicate (w - l.length) ' '

/-- The mnemonic as the disassembly prints it (R102, R242). -/
def mnemonicText : Mnemonic → Line
  | .adc => "ADC".toList
  | .and => "AND".toList
  | .asl => "ASL".toList
  | .bcc => "BCC".toList
  | .bcs => "BCS".toList
  | .beq => "BEQ".toList
  | .bit => "BIT".toList
  | .bmi => "BMI".toList
  | .bne => "BNE".toList
  | .bpl => "BPL".toList
  | .brk => "BRK".toList
  | .bvc => "BVC".toList
  | .bvs => "BVS".toList
  | .clc => "CLC".toList
  | .cld => "CLD".toList
  | .cli => "CLI".toList
  | .clv => "CLV".toList
  | .cmp => "CMP".toList
  | .cpx => "CPX".toList
  | .cpy => "CPY".toList
  | .dec => "DEC".toList
  | .dex => "DEX".toList
  | .dey => "DEY".toList
  | .eor => "EOR".toList
  | .inc => "INC".toList
  | .inx => "INX".toList
  | .iny => "INY".toList
  | .jmp => "JMP".toList
  | .jsr => "JSR".toList
  | .lda => "LDA".toList
  | .ldx => "LDX".toList
  | .ldy => "LDY".toList
  | .lsr => "LSR".toList
  | .nop => "NOP".toList
  | .ora => "ORA".toList
  | .pha => "PHA".toList
  | .php => "PHP".toList
  | .pla => "PLA".toList
  | .plp => "PLP".toList
  | .rol => "ROL".toList
  | .ror => "ROR".toList
  | .rti => "RTI".toList
  | .rts => "RTS".toList
  | .sbc => "SBC".toList
  | .sec => "SEC".toList
  | .sed => "SED".toList
  | .sei => "SEI".toList
  | .sta => "STA".toList
  | .stx => "STX".toList
  | .sty => "STY".toList
  | .tax => "TAX".toList
  | .tay => "TAY".toList
  | .tsx => "TSX".toList
  | .txa => "TXA".toList
  | .txs => "TXS".toList
  | .tya => "TYA".toList

/-- The operand text of a memory form (R242). -/
def memText : MemForm → Line
  | .zp z => "$".toList ++ hex2 z
  | .zpx z => "$".toList ++ hex2 z ++ ",X".toList
  | .zpy z => "$".toList ++ hex2 z ++ ",Y".toList
  | .abs a => "$".toList ++ hex4 a
  | .abx a => "$".toList ++ hex4 a ++ ",X".toList
  | .aby a => "$".toList ++ hex4 a ++ ",Y".toList
  | .izx z => "($".toList ++ hex2 z ++ ",X)".toList
  | .izy z => "($".toList ++ hex2 z ++ "),Y".toList

/-- The operand text of a form, after the space that separates it (R242): a branch shows its target. -/
def formText (f : Form) (a0 : Word) : Line :=
  match f with
  | .imp => []
  | .acc => " A".toList
  | .imm v => " #$".toList ++ hex2 v
  | .mem m => ' ' :: memText m
  | .ind ptr => " ($".toList ++ hex4 ptr ++ ")".toList
  | .rel off => " $".toList ++ hex4 (a0 + 2 + sext16 off)

/-- `Disasm` (R242) of an instruction at an opcode address. -/
def disasm (i : Instr) (a0 : Word) : Line := mnemonicText i.mnemonic ++ formText i.form a0

/-- The record of an instruction that a step started in state `s` completed (R126): `bytes` are the bytes read. -/
def traceRecord (s : State) (bytes : List Byte) (i : Instr) : TraceRecord where
  addr := s.pc
  bytes := bytes
  text := disasm i s.pc
  a := s.a
  x := s.x
  y := s.y
  p := s.p
  sp := s.sp

/-- `Format(record)` (R243): the 73 characters of a trace line. -/
def formatLine (r : TraceRecord) : Line :=
  hex4 r.addr ++ "  ".toList ++ pad (List.intercalate [' '] (r.bytes.map hex2)) 8 ++ "  ".toList ++ pad r.text 32 ++
    "A:".toList ++ hex2 r.a ++ " X:".toList ++ hex2 r.x ++ " Y:".toList ++ hex2 r.y ++
    " P:".toList ++ hex2 r.p ++ " SP:".toList ++ hex2 r.sp

/-- `trunc(s)` (R251): the first `TRACE_CMP_COLS` characters. -/
def truncLine (cols : Nat) (l : Line) : Line := l.take cols

/-- The line read from its end without one line terminator, LF or CR LF (R252). -/
def dropTerminator : Line → Line
  | '\n' :: '\r' :: t => t
  | '\n' :: t => t
  | t => t

/-- `norm(g)` (R252): the golden line without one trailing line terminator. -/
def normLine (g : Line) : Line := (dropTerminator g.reverse).reverse

/-- `verify_step(record)` (R250), given the produced line. -/
def Verifier.step (v : Verifier) (cols : Nat) (produced : Line) : Verifier :=
  match v.status with
  | .passed _ _ | .mismatch _ _ _ => v
  | .comparing =>
    match v.golden with
    | [] => { v with status := .passed v.index none }
    | g :: rest =>
      if truncLine cols (normLine g) = truncLine cols produced then { v with golden := rest, index := v.index + 1 }
      else { v with golden := rest, status := .mismatch g produced v.index }

/-- The verifier when the engine halts first (R254): it passes, and carries the halt signal. -/
def Verifier.engineHalted (v : Verifier) (r : HaltReason) : Verifier :=
  match v.status with
  | .comparing => { v with status := .passed v.index (some r) }
  | .passed _ _ | .mismatch _ _ _ => v

/-- Feeds a completed step's record to the verifier, when active (R131, R250). -/
def State.feedRecord (s : State) (r : TraceRecord) : State :=
  { s with verifier := s.verifier.map fun v => v.step s.params.traceCmpCols (formatLine r) }

/-- Tells the verifier, when active, that the engine halted (R131, R254). -/
def State.feedHalt (s : State) (r : HaltReason) : State :=
  { s with verifier := s.verifier.map fun v => v.engineHalted r }

end Sys2Proof.Machine
end

