-- ==== Sys2Proof/Machine/Loop.lean ====
section
/-! DEFINITION. One iteration of the dispatch loop (40_dispatch.md R120 to R129). -/

namespace Sys2Proof.Machine

/-- The outcomes of `step()` (R120), with the state after. -/
inductive StepOutcome where
  /-- `Next(record, diags)`: a mapped instruction executed to completion. -/
  | next (record : TraceRecord) (diags : List Diagnostic) (s : State)
  /-- `Halt(reason)`: an unmapped opcode, or a fault-policy StackBoundary. -/
  | halt (reason : HaltReason) (s : State)
  /-- `Halted(reason)`: the loop was Halted already; nothing changes. -/
  | halted (reason : HaltReason)
  /-- A fault of the handler; there is none. -/
  | fault (f : Fault)
  /-- `Refused`, or a step before any load (R293): no successor state. -/
  | refused (r : Refusal)

/-- The end of a step whose handler left state `t` (R121): still Running, it has completed, and adds the entry's
cycles; Halted, it was abandoned, and adds none (R127). -/
def finish (record : TraceRecord) (cycles : Nat) (t : State) : StepOutcome :=
  match t.run with
  | .running => .next record t.diags { t with cycles := t.cycles + cycles }
  | .halted r => .halt r t

/-- The step of a Running loop (R121): fetch, decode, resolve, execute, count, and the record of the state before. -/
def runStep (s : State) : StepOutcome :=
  match { s with diags := [] }.fetchInstr with
  | .unmapped op s1 => .halt (.unmappedOpcode op s.pc) (s1.haltUnmapped op s.pc)
  | .decoded cycles bytes i s1 =>
    match exec i s1 with
    | .next t => finish (traceRecord s bytes i) cycles t
    | .fault f => .fault f
    | .refused r => .refused r

/-- `step()` (R121, R128); before any load it is refused, as R293 allows (DESIGN CHOICE, notes/assumptions/5.md). -/
def dispatchStep (s : State) : StepOutcome :=
  if s.loaded then
    match s.run with
    | .halted r => .halted r
    | .running => runStep s
  else .refused .notLoaded

/-- The state after a step, its record or its halt signal fed to the verifier when one is active (R131, R250, R254).
A step of a Halted loop leaves the state as it was (R128). -/
def StepOutcome.toOutcome (s : State) : StepOutcome → Result
  | .next record _ t => .next (t.feedRecord record)
  | .halt r t => .next (t.feedHalt r)
  | .halted _ => .next s
  | .fault f => .fault f
  | .refused r => .refused r

end Sys2Proof.Machine
end

