-- ==== Sys2Proof/Machine/Step.lean ====
section
/-! DEFINITION. The step of the machine, and the state that runs a given instruction next. -/

namespace Sys2Proof.Machine

/-- One step of the machine (R121). -/
def step (s : State) : Host.Outcome State Fault Refusal := (dispatchStep s).toOutcome s

/-- The state with an instruction, given as a number, stored at PC (notes/assumptions/1.md says how a program comes to
run). Under `IO_MODEL = oracle` a PC in a device window reads draws, and no store can place an instruction there. -/
def State.withFetchWord (s : State) (nbits w : Nat) : State := s.placeInstr (tableWordBytes nbits w)

end Sys2Proof.Machine
end

