-- ==== Sys2Proof/Machine/HostOps.lean ====
section
/-! DEFINITION. The host's operations (00_scope.md R5): load, stop, verify and run_until (40_dispatch.md R130 to R134,
48_trace.md R250, 70_reset_and_hazards.md R290 to R294). `step` is in Step.lean, and memory read and write are
`State.memRead` and `State.memWrite`. -/

namespace Sys2Proof.Machine

/-- `LoadError` (R265, R292): the image length and the origin. -/
structure LoadError where
  length : Nat
  origin : Word
deriving DecidableEq, Repr

/-- Whether an image fits at an origin (R292): its last byte may sit at 0xFFFF. -/
def imageFits (image : List Byte) (origin : Word) : Bool := origin.toNat + image.length ≤ 0x10000

/-- `load(image, origin)` (R292): an image that does not fit changes nothing; else a reset, then the copy. The
parameters are the hardware's and stay; so does the count of device draws, so that a new session draws anew. -/
def load (image : List Byte) (origin : Word) (s : State) : Except LoadError State :=
  if imageFits image origin then
    let t := State.resetTo s.params origin
    .ok { t with mem := Memory.copy t.mem origin image, ioReads := s.ioReads }
  else .error ⟨image.length, origin⟩

/-- The block before any session (R290, R293), with its parameters: nothing can run until a load. What the other fields
hold no rule can see; they are those of a reset at 0x0000 (DESIGN CHOICE, notes/assumptions/5.md). -/
def State.unloaded (params : Params) : State := { State.resetTo params 0x0000 with loaded := false }

/-- `stop()` (R130): Running becomes Halted with reason Stopped, and an active verifier learns of the halt (R254). -/
def State.stop (s : State) : State :=
  match s.run with
  | .running => { s with run := .halted .stopped }.feedHalt .stopped
  | .halted _ => s

/-- `verify(golden)` (R5, R41, R250): verification becomes active on the golden lines. -/
def State.verify (s : State) (golden : List Line) : State := { s with verifier := some ⟨golden, 0, .comparing⟩ }

/-- Whether an active verifier has stopped comparing (R131). -/
def State.verifyDone? (s : State) : Option VerifyStatus :=
  match s.verifier with
  | none => none
  | some v =>
    match v.status with
    | .comparing => none
    | .passed k r => some (.passed k r)
    | .mismatch e a k => some (.mismatch e a k)

/-- What `run_until` returns (R131), with the state it leaves. -/
inductive RunOutcome where
  | halted (reason : HaltReason) (s : State)
  | predicateMet (s : State)
  | verifyDone (status : VerifyStatus) (s : State)
  | fault (f : Fault)
  | refused (r : Refusal)
  /-- The bound on the number of steps ran out with the loop still Running: the run goes on (R132). -/
  | unfinished (s : State)

/-- The loop of `run_until(pred)` (R131) for at most `fuel` steps: Halted and the predicate are checked before each
step, and the verifier after it. -/
def runSteps (pred : State → Bool) : Nat → State → RunOutcome
  | 0, s => .unfinished s
  | fuel + 1, s =>
    match s.run with
    | .halted r => .halted r s
    | .running =>
      if pred s then .predicateMet s
      else
        match step s with
        | .fault f => .fault f
        | .refused r => .refused r
        | .next t =>
          match t.verifyDone? with
          | some v => .verifyDone v t
          | none => runSteps pred fuel t

/-- `run_until(pred)` (R131) with a bound on the number of steps (DESIGN CHOICE, notes/assumptions/11.md). Before any
load it is refused whatever the predicate and the run state say: R293 leaves that call undefined and allows the refusal
(DESIGN CHOICE, notes/assumptions/5.md). -/
def runUntil (pred : State → Bool) (fuel : Nat) (s : State) : RunOutcome :=
  if s.loaded then runSteps pred fuel s else .refused .notLoaded

end Sys2Proof.Machine
end

