-- ==== Sys2Proof/Safety.lean ====
section
/-! DEFINITION. The terms claims are stated in: the invariant of the machine, and what an instruction or a step may
leave different. -/

namespace Sys2Proof.Machine

/-- The reason a Halted loop holds is one its parameters and table allow, and PC is where that halt leaves it: just past
an unmapped opcode (R123), at the opcode of an abandoned instruction (R75). -/
def State.haltLegal (s : State) : Prop :=
  match s.run with
  | .running => True
  | .halted .stopped => True
  | .halted (.unmappedOpcode op addr) => lookup op = none ∧ s.pc = addr + 1
  | .halted (.stackBoundary _ addr) => s.params.stackPolicy = .fault ∧ s.pc = addr

/-- The invariant: memory and `MEM0` in canonical form (R52), P with bit 5 set and bit 4 clear (R28), and a legal
halt reason. -/
structure State.Inv (s : State) : Prop where
  memWf     : Memory.wf s.mem
  mem0Wf    : Memory.wf s.params.mem0
  unusedOne : s.p[5] = true
  breakZero : s.p[4] = false
  haltLegal : s.haltLegal

/-- The state with everything taken out that no instruction may read: the cycle count (R38), the verifier (R255), the
diagnostics (R42) and the recorded device writes (R55). -/
def State.visible (s : State) : State := { s with cycles := 0, verifier := none, diags := [], ioWrites := [] }

/-- A status byte `q` that is `p` with the listed flags written with the listed values and every other bit kept
(R27: "flags not documented as affected by an operation retain their prior value exactly"). -/
def WritesFlags (p q : Byte) (w : List (StatusFlag × Bool)) : Prop :=
  (∀ fb ∈ w, getFlag fb.1 q = fb.2) ∧ ∀ k, (∀ fb ∈ w, fb.1.bit ≠ k) → q.getLsbD k = p.getLsbD k

/-- N and Z of a result (R133): Z exactly when it is 0, N its bit 7. -/
def nzOf (v : Byte) : List (StatusFlag × Bool) := [(.z, v.toNat = 0), (.n, 128 ≤ v.toNat)]

/-- Every byte of memory reads in `t` as in `s`. -/
def State.sameMemory (s t : State) : Prop := ∀ b, t.peek b = s.peek b

/-- From `s` to `t` one byte is stored to the cell of `ea` (R54): every address of that cell reads the byte, every other
address reads as before; at a device the write is an event and no byte changes (R55). -/
structure Stores (s t : State) (ea : Word) (v : Byte) : Prop where
  others : ∀ b, canon b ≠ canon ea → t.peek b = s.peek b
  stored : s.atDevice ea = false → ∀ b, canon b = canon ea → t.peek b = v
  device : s.atDevice ea = true → s.sameMemory t
  events : t.ioWrites = if s.atDevice ea then s.ioWrites ++ [⟨canon ea, v⟩] else s.ioWrites

/-- `t` is `s` with a result written back to a place and P changed (R101); the count of draws is the one after the
reads. -/
def WrittenBack (s t : State) (l : Loc) (r : Byte) (draws : Nat) : Prop :=
  match l with
  | .acc => t = { s with a := r, p := t.p, ioReads := draws } ∧ s.sameMemory t
  | .addr ea => t = { s with mem := t.mem, ioWrites := t.ioWrites, p := t.p, ioReads := draws } ∧ Stores s t ea r

/-- The addresses of page 0x01, by offset (R70). -/
def stackCell (k : Nat) : Word := BitVec.ofNat 16 (0x100 + k % 256)

/-- The diagnostics of an instruction whose opcode is at `a0` and that wraps S or does not (R74). -/
def wrapDiag (wraps : Bool) (k : StackKind) (a0 : Word) : List Diagnostic := if wraps then [⟨k, a0⟩] else []

/-- One of the `n` pushes or pops of an instruction would wrap S (R74): a push that starts at S = 0x00, or a pop at
S = 0xFF. -/
def crossesBoundary (k : StackKind) (m : Mnemonic) (sp : Byte) : Prop :=
  ∃ n, (k = .push ∧ (m, n) ∈ [(.pha, 1), (.php, 1), (.jsr, 2), (.brk, 3)] ∧ sp.toNat < n) ∨
    (k = .pop ∧ (m, n) ∈ [(.pla, 1), (.plp, 1), (.rts, 2), (.rti, 3)] ∧ 255 < sp.toNat + n)

/-- The bytes the next `n` reads at PC give, in order, and the state they leave (R100). -/
def State.fetchBytes (s : State) : Nat → List Byte × State
  | 0 => ([], s)
  | n + 1 =>
    let b := s.fetchByte
    let r := b.2.fetchBytes n
    (b.1 :: r.1, r.2)

/-- An answer with its next state changed. -/
def mapNext (f : State → State) : Result → Result
  | .next t => .next (f t)
  | .fault e => .fault e
  | .refused r => .refused r

end Sys2Proof.Machine
end

