-- ==== Sys2Proof/Certificates/Slice0/Obligations.lean ====
section
/-! DEFINITION. The statements about the model, for the provers. A statement about `exec` starts where a handler does:
PC is past the whole instruction (10_state.md R25), so the opcode address is PC minus the length. `readSource`,
`effAddr` and `resolvePlace` are the model's `ReadOperand` and resolver; what addresses they give is
`Obligations.ResolverGivesTheModesAddresses`. Every statement holds under both values of `IO_MODEL`: `ioReads` counts
the draws of device reads and is the only field a read changes. -/

open Sys2Proof Sys2Proof.Machine

namespace Sys2Proof.Claims

/-- The opcodes and modes of each mnemonic, as the second table of 30_encoding.md R84 lists them. -/
def encodingsOf : Mnemonic → List (Byte × Mode)
  | .adc => [(0x61, .izx), (0x65, .zp), (0x69, .imm), (0x6D, .abs), (0x71, .izy), (0x75, .zpx), (0x79, .aby), (0x7D, .abx)]
  | .and => [(0x21, .izx), (0x25, .zp), (0x29, .imm), (0x2D, .abs), (0x31, .izy), (0x35, .zpx), (0x39, .aby), (0x3D, .abx)]
  | .asl => [(0x06, .zp), (0x0A, .acc), (0x0E, .abs), (0x16, .zpx), (0x1E, .abx)]
  | .bcc => [(0x90, .rel)]
  | .bcs => [(0xB0, .rel)]
  | .beq => [(0xF0, .rel)]
  | .bit => [(0x24, .zp), (0x2C, .abs)]
  | .bmi => [(0x30, .rel)]
  | .bne => [(0xD0, .rel)]
  | .bpl => [(0x10, .rel)]
  | .brk => [(0x00, .imp)]
  | .bvc => [(0x50, .rel)]
  | .bvs => [(0x70, .rel)]
  | .clc => [(0x18, .imp)]
  | .cld => [(0xD8, .imp)]
  | .cli => [(0x58, .imp)]
  | .clv => [(0xB8, .imp)]
  | .cmp => [(0xC1, .izx), (0xC5, .zp), (0xC9, .imm), (0xCD, .abs), (0xD1, .izy), (0xD5, .zpx), (0xD9, .aby), (0xDD, .abx)]
  | .cpx => [(0xE0, .imm), (0xE4, .zp), (0xEC, .abs)]
  | .cpy => [(0xC0, .imm), (0xC4, .zp), (0xCC, .abs)]
  | .dec => [(0xC6, .zp), (0xCE, .abs), (0xD6, .zpx), (0xDE, .abx)]
  | .dex => [(0xCA, .imp)]
  | .dey => [(0x88, .imp)]
  | .eor => [(0x41, .izx), (0x45, .zp), (0x49, .imm), (0x4D, .abs), (0x51, .izy), (0x55, .zpx), (0x59, .aby), (0x5D, .abx)]
  | .inc => [(0xE6, .zp), (0xEE, .abs), (0xF6, .zpx), (0xFE, .abx)]
  | .inx => [(0xE8, .imp)]
  | .iny => [(0xC8, .imp)]
  | .jmp => [(0x4C, .abs), (0x6C, .ind)]
  | .jsr => [(0x20, .abs)]
  | .lda => [(0xA1, .izx), (0xA5, .zp), (0xA9, .imm), (0xAD, .abs), (0xB1, .izy), (0xB5, .zpx), (0xB9, .aby), (0xBD, .abx)]
  | .ldx => [(0xA2, .imm), (0xA6, .zp), (0xAE, .abs), (0xB6, .zpy), (0xBE, .aby)]
  | .ldy => [(0xA0, .imm), (0xA4, .zp), (0xAC, .abs), (0xB4, .zpx), (0xBC, .abx)]
  | .lsr => [(0x46, .zp), (0x4A, .acc), (0x4E, .abs), (0x56, .zpx), (0x5E, .abx)]
  | .nop => [(0xEA, .imp)]
  | .ora => [(0x01, .izx), (0x05, .zp), (0x09, .imm), (0x0D, .abs), (0x11, .izy), (0x15, .zpx), (0x19, .aby), (0x1D, .abx)]
  | .pha => [(0x48, .imp)]
  | .php => [(0x08, .imp)]
  | .pla => [(0x68, .imp)]
  | .plp => [(0x28, .imp)]
  | .rol => [(0x26, .zp), (0x2A, .acc), (0x2E, .abs), (0x36, .zpx), (0x3E, .abx)]
  | .ror => [(0x66, .zp), (0x6A, .acc), (0x6E, .abs), (0x76, .zpx), (0x7E, .abx)]
  | .rti => [(0x40, .imp)]
  | .rts => [(0x60, .imp)]
  | .sbc => [(0xE1, .izx), (0xE5, .zp), (0xE9, .imm), (0xED, .abs), (0xF1, .izy), (0xF5, .zpx), (0xF9, .aby), (0xFD, .abx)]
  | .sec => [(0x38, .imp)]
  | .sed => [(0xF8, .imp)]
  | .sei => [(0x78, .imp)]
  | .sta => [(0x81, .izx), (0x85, .zp), (0x8D, .abs), (0x91, .izy), (0x95, .zpx), (0x99, .aby), (0x9D, .abx)]
  | .stx => [(0x86, .zp), (0x8E, .abs), (0x96, .zpy)]
  | .sty => [(0x84, .zp), (0x8C, .abs), (0x94, .zpx)]
  | .tax => [(0xAA, .imp)]
  | .tay => [(0xA8, .imp)]
  | .tsx => [(0xBA, .imp)]
  | .txa => [(0x8A, .imp)]
  | .txs => [(0x9A, .imp)]
  | .tya => [(0x98, .imp)]

/-- The 105 unmapped opcodes, as 30_encoding.md R85 lists them. -/
def unmappedOpcodes : List Byte :=
  [0x02, 0x03, 0x04, 0x07, 0x0B, 0x0C, 0x0F, 0x12, 0x13, 0x14, 0x17, 0x1A, 0x1B, 0x1C, 0x1F,
   0x22, 0x23, 0x27, 0x2B, 0x2F, 0x32, 0x33, 0x34, 0x37, 0x3A, 0x3B, 0x3C, 0x3F, 0x42, 0x43,
   0x44, 0x47, 0x4B, 0x4F, 0x52, 0x53, 0x54, 0x57, 0x5A, 0x5B, 0x5C, 0x5F, 0x62, 0x63, 0x64,
   0x67, 0x6B, 0x6F, 0x72, 0x73, 0x74, 0x77, 0x7A, 0x7B, 0x7C, 0x7F, 0x80, 0x82, 0x83, 0x87,
   0x89, 0x8B, 0x8F, 0x92, 0x93, 0x97, 0x9B, 0x9C, 0x9E, 0x9F, 0xA3, 0xA7, 0xAB, 0xAF, 0xB2,
   0xB3, 0xB7, 0xBB, 0xBF, 0xC2, 0xC3, 0xC7, 0xCB, 0xCF, 0xD2, 0xD3, 0xD4, 0xD7, 0xDA, 0xDB,
   0xDC, 0xDF, 0xE2, 0xE3, 0xE7, 0xEB, 0xEF, 0xF2, 0xF3, 0xF4, 0xF7, 0xFA, 0xFB, 0xFC, 0xFF]

/-- The instruction's opcode and mode are among those its rule gives under "Encoding". -/
def encodedAsListed (i : Instr) : Prop := (i.opcode, i.form.mode) ∈ encodingsOf i.mnemonic

/-- The answer of an instruction one of whose pushes or pops raises StackBoundary (R75): the loop is Halted, PC is the
opcode address, and everything else is as the handler found it. -/
def abandons (i : Instr) (s : State) (k : StackKind) : Prop :=
  let a0 := s.pc - BitVec.ofNat 16 i.length
  exec i s = .next { s with pc := a0, run := .halted (.stackBoundary k a0) }

/-- The number a shift or rotate makes of v and the old carry, and the bit it shifts out (R200 to R203). -/
def shiftedTo (m : Mnemonic) (v c : Nat) : Option (Nat × Bool) :=
  match m with
  | .asl => some (2 * v % 256, 128 ≤ v)
  | .lsr => some (v / 2, v % 2 = 1)
  | .rol => some ((2 * v + c) % 256, 128 ≤ v)
  | .ror => some (v / 2 + 128 * c, v % 2 = 1)
  | _ => none

/-- The name of each of the 56 mnemonics, as the opcode map spells it (R84, R102). -/
def mnemonicName : Mnemonic → String
  | .adc => "ADC"
  | .and => "AND"
  | .asl => "ASL"
  | .bcc => "BCC"
  | .bcs => "BCS"
  | .beq => "BEQ"
  | .bit => "BIT"
  | .bmi => "BMI"
  | .bne => "BNE"
  | .bpl => "BPL"
  | .brk => "BRK"
  | .bvc => "BVC"
  | .bvs => "BVS"
  | .clc => "CLC"
  | .cld => "CLD"
  | .cli => "CLI"
  | .clv => "CLV"
  | .cmp => "CMP"
  | .cpx => "CPX"
  | .cpy => "CPY"
  | .dec => "DEC"
  | .dex => "DEX"
  | .dey => "DEY"
  | .eor => "EOR"
  | .inc => "INC"
  | .inx => "INX"
  | .iny => "INY"
  | .jmp => "JMP"
  | .jsr => "JSR"
  | .lda => "LDA"
  | .ldx => "LDX"
  | .ldy => "LDY"
  | .lsr => "LSR"
  | .nop => "NOP"
  | .ora => "ORA"
  | .pha => "PHA"
  | .php => "PHP"
  | .pla => "PLA"
  | .plp => "PLP"
  | .rol => "ROL"
  | .ror => "ROR"
  | .rti => "RTI"
  | .rts => "RTS"
  | .sbc => "SBC"
  | .sec => "SEC"
  | .sed => "SED"
  | .sei => "SEI"
  | .sta => "STA"
  | .stx => "STX"
  | .sty => "STY"
  | .tax => "TAX"
  | .tay => "TAY"
  | .tsx => "TSX"
  | .txa => "TXA"
  | .txs => "TXS"
  | .tya => "TYA"

/-- The hexadecimal digits, in order (R241). -/
def hexDigits : List Char := "0123456789ABCDEF".toList

/-- The operand text R242 gives a mode, with the space before it, for the operand bytes `b1` and `b2` of an instruction
at `a0`. -/
def operandText (mode : Mode) (b1 b2 : Byte) (a0 : Word) : Line :=
  match mode with
  | .imp => []
  | .acc => " A".toList
  | .imm => " #$".toList ++ hex2 b1
  | .zp => " $".toList ++ hex2 b1
  | .zpx => " $".toList ++ hex2 b1 ++ ",X".toList
  | .zpy => " $".toList ++ hex2 b1 ++ ",Y".toList
  | .abs => " $".toList ++ hex2 b2 ++ hex2 b1
  | .abx => " $".toList ++ hex2 b2 ++ hex2 b1 ++ ",X".toList
  | .aby => " $".toList ++ hex2 b2 ++ hex2 b1 ++ ",Y".toList
  | .ind => " ($".toList ++ hex2 b2 ++ hex2 b1 ++ ")".toList
  | .izx => " ($".toList ++ hex2 b1 ++ ",X)".toList
  | .izy => " ($".toList ++ hex2 b1 ++ "),Y".toList
  | .rel => " $".toList ++ hex4 (BitVec.ofInt 16 (a0.toNat + 2 + b1.toInt))

/-- A golden line and a produced line are equal after normalisation and truncation (R250 to R252). -/
def linesMatch (cols : Nat) (gs ps : List Line) (k : Nat) : Prop :=
  ∃ g p, gs[k]? = some g ∧ ps[k]? = some p ∧ truncLine cols (normLine g) = truncLine cols p

/-- The verifier after it was fed the produced lines, in order. -/
def verified (cols : Nat) (gs ps : List Line) : Verifier :=
  ps.foldl (fun v p => v.step cols p) ⟨gs, 0, .comparing⟩

end Sys2Proof.Claims

open Sys2Proof.Claims

/-! ## Encoding -/

/-- Decoding the encoding of an instruction gives it back, with every operand, and leaves the bytes after it
(30_encoding.md R80, R81, R84). -/
def Obligations.DecodeOfEncodeIsTheInstruction : Prop :=
  ∀ (i : Instr) (rest : List Byte), decode (encode i ++ rest) = .ok (i, rest)

/-- Bytes that decode to an instruction are its encoding followed by the bytes left over: every instruction has one
encoding (30_encoding.md R80, R81, R84). -/
def Obligations.EncodeOfDecodeIsTheBytes : Prop :=
  ∀ (bytes rest : List Byte) (i : Instr), decode bytes = .ok (i, rest) → bytes = encode i ++ rest

/-- R85, R123, R261: exactly the 105 listed opcodes have no entry, and a step that fetches one halts with
`UnmappedOpcode(byte, addr)`: PC past the opcode byte, no operand byte read, no record, no cycle, and no other register,
flag or byte changed. That the field of the diagnostics is left empty is the model's (notes/assumptions/7.md and 15.md),
and so is the count of the draws a fetch takes (4.md and 14.md). -/
def Obligations.UnmappedOpcodesHalt : Prop :=
  unmappedOpcodes.length = 105 ∧ ∀ op : Byte,
    (lookup op = none ↔ op ∈ unmappedOpcodes) ∧
    ∀ s : State, s.loaded = true → s.run = .running → (s.memRead s.pc).1 = op → op ∈ unmappedOpcodes →
      dispatchStep s = .halt (.unmappedOpcode op s.pc)
        { s with
          pc := s.pc + 1, run := .halted (.unmappedOpcode op s.pc), diags := []
          ioReads := (s.memRead s.pc).2.ioReads }

/-- Words of each family, written out bit by bit from the `encoding` column of spec/opcode_table.json; a 16-bit field
is its low byte plus 256 times its high byte (30_encoding.md R81, R84). -/
def Obligations.SpecWordsDecode : Prop :=
  ∀ b lo hi : Byte,
    decode [0b10101001, b] = .ok (.ldaImm b, []) ∧
    decode [0b10010110, b] = .ok (.stxZpy b, []) ∧
    decode [0b01100001, b] = .ok (.adcIzx b, []) ∧
    decode [0b11010001, b] = .ok (.cmpIzy b, []) ∧
    decode [0b01101010] = .ok (.rorAcc, []) ∧
    decode [0b01111110, lo, hi] = .ok (.rorAbx (BitVec.ofNat 16 (lo.toNat + 256 * hi.toNat)), []) ∧
    decode [0b10011010] = .ok (.txs, []) ∧
    decode [0b11111000] = .ok (.sed, []) ∧
    decode [0b11010000, b] = .ok (.bne b, []) ∧
    decode [0b01101100, lo, hi] = .ok (.jmpInd (BitVec.ofNat 16 (lo.toNat + 256 * hi.toNat)), []) ∧
    decode [0b00100000, lo, hi] = .ok (.jsr (BitVec.ofNat 16 (lo.toNat + 256 * hi.toNat)), [])

/-- R80: an instruction is its opcode and 0, 1 or 2 operand bytes, and the opcode alone fixes mnemonic, addressing mode
and length. -/
def Obligations.OpcodeFixesModeAndLength : Prop :=
  (∀ i : Instr, (encode i).length = i.length ∧ 1 ≤ i.length ∧ i.length ≤ 3 ∧ (encode i).head? = some i.opcode) ∧
  ∀ i j : Instr, i.opcode = j.opcode →
    i.mnemonic = j.mnemonic ∧ i.form.mode = j.form.mode ∧ i.length = j.length

/-- The opcode map (R84, R82): an opcode and a mode are listed for a mnemonic exactly when the table maps that opcode
to that mnemonic and mode, and there are 151 entries. -/
def Obligations.OpcodeMapIsTheListedOne : Prop :=
  table.length = 151 ∧
  ∀ (op : Byte) (m : Mnemonic) (mode : Mode),
    (op, mode) ∈ encodingsOf m ↔ ∃ r, lookup op = some r ∧ r.mnemonic = m ∧ r.mode = mode

/-- R103: a mnemonic and a form assemble to an instruction exactly when the table pairs them, and that instruction is
the one with this mnemonic and this form. -/
def Obligations.EachPairAssemblesToOneInstruction : Prop :=
  (∀ (m : Mnemonic) (f : Form), WellFormed m f = true ↔ ∃ i, assemble m f = some i) ∧
  ∀ (m : Mnemonic) (f : Form) (i : Instr), assemble m f = some i ↔ i.mnemonic = m ∧ i.form = f

/-- R300: the base cycle count of every entry is the one R300 gives its group and mode. -/
def Obligations.BaseCyclesFollowTheModeTable : Prop :=
  ∀ i : Instr, ∃ r, lookup i.opcode = some r ∧ r.mnemonic = i.mnemonic ∧ r.mode = i.form.mode ∧
    r.cycles = i.baseCycles

/-! ## Memory -/

/-- R51, R52: the canonical address by the windows of R51, in numbers; `canon` is idempotent, and its values are the
canonical cells. -/
def Obligations.CanonicalAddresses : Prop :=
  ∀ a : Word,
    (a.toNat ≤ 0x1FFF → (canon a).toNat = a.toNat % 0x800) ∧
    (0x2000 ≤ a.toNat → a.toNat ≤ 0x3FFF → (canon a).toNat = 0x2000 + a.toNat % 8) ∧
    (0x4000 ≤ a.toNat → canon a = a) ∧
    canon (canon a) = canon a ∧
    (isCanonical (canon a).toNat = true ∧ ∀ k, isCanonical k = true → ∃ b : Word, canon b = b ∧ b.toNat = k)

/-- R53, R54 under `IO_MODEL = ram`: a read gives the cell of the canonical address and changes nothing; a write sets
that cell, through all its mirrors, and changes no other byte and nothing else of the state. -/
def Obligations.ReadAfterWrite : Prop :=
  ∀ (s : State) (a b : Word) (v : Byte), s.params.ioModel = .ram →
    s.memRead b = (s.peek b, s) ∧
    (canon a = canon b → s.peek a = s.peek b) ∧
    s.memWrite a v = { s with mem := (s.memWrite a v).mem } ∧
    (s.memWrite a v).memRead b = (if canon b = canon a then v else s.peek b, s.memWrite a v)

/-- R55: under `ram` the device windows are plain cells; under `oracle` a read of a canonical address in 0x2000 to
0x2007 or 0x4000 to 0x401F is an unconstrained draw, and a write to one is recorded as an event; every other address is a
plain cell. That the draw is `Config.ioDraw` of a counter is the model's choice (notes/assumptions/4.md), and that the
write leaves every byte as it was and is listed in `ioWrites` the model's reading (10.md). -/
def Obligations.DeviceWindows : Prop :=
  ∀ (s : State) (a : Word) (v : Byte),
    let device := (0x2000 ≤ (canon a).toNat ∧ (canon a).toNat ≤ 0x2007) ∨
      (0x4000 ≤ (canon a).toNat ∧ (canon a).toNat ≤ 0x401F)
    (s.params.ioModel = .oracle → device →
      s.memRead a = (Config.ioDraw s.ioReads, { s with ioReads := s.ioReads + 1 }) ∧
      s.memWrite a v = { s with ioWrites := s.ioWrites ++ [⟨canon a, v⟩] }) ∧
    (s.params.ioModel = .ram ∨ ¬ device →
      s.memRead a = (s.peek a, s) ∧
      s.memWrite a v = { s with mem := (s.memWrite a v).mem } ∧
      ∀ b, (s.memWrite a v).peek b = if canon b = canon a then v else s.peek b)

/-- R292, R265: an image that would pass 0xFFFF is a LoadError and nothing is loaded; any other is loaded: the state is
the reset one (R291) with the image's bytes at their canonical cells, the later byte where two share a cell, and `MEM0`
in every cell the image does not reach; of the count of device draws nothing is said. The fields of State that are the
model's own follow its choices: the parameters stay (notes/assumptions/6.md), a session is loaded (5.md), and the
diagnostics and the device writes are emptied (7.md and 10.md). -/
def Obligations.LoadCopiesTheImageOrRejectsIt : Prop :=
  ∀ (image : List Byte) (origin : Word) (s : State),
    (origin.toNat + image.length > 0x10000 → load image origin s = .error ⟨image.length, origin⟩) ∧
    (origin.toNat + image.length ≤ 0x10000 → ∃ t, load image origin s = .ok t ∧
      t = { State.resetTo s.params origin with mem := t.mem, ioReads := t.ioReads } ∧
      (∀ (k : Nat) (h : k < image.length),
        (∀ j, k < j → j < image.length →
          canon (origin + BitVec.ofNat 16 j) ≠ canon (origin + BitVec.ofNat 16 k)) →
        t.peek (origin + BitVec.ofNat 16 k) = image[k]) ∧
      ∀ b, (∀ k, k < image.length → canon (origin + BitVec.ofNat 16 k) ≠ canon b) →
        t.peek b = Memory.read s.params.mem0 (canon b).toNat)

/-! ## Reset, the step, the whole machine -/

/-- R45: the reset values, under any parameters and at any load origin. -/
def Obligations.ResetValues : Prop :=
  ∀ (params : Params) (origin : Word), let s := State.resetTo params origin
    s.pc = origin ∧ s.p = 0x24 ∧ s.sp = 0xFD ∧ s.a = 0x00 ∧ s.x = 0x00 ∧ s.y = 0x00 ∧
    s.run = .running ∧ s.cycles = 0 ∧ s.verifier = none ∧
    s.flag .n = false ∧ s.flag .v = false ∧ s.flag .d = false ∧ s.flag .i = true ∧ s.flag .z = false ∧
    s.flag .c = false ∧ s.p[5] = true ∧ s.p[4] = false ∧
    ∀ a, s.peek a = Memory.read params.mem0 (canon a).toNat

/-- The reset state meets the invariant, whatever the parameters, where `MEM0` is in canonical form; and so does
`State.reset`, whose parameters are the model's defaults (notes/assumptions/1.md, 2.md, 3.md). -/
def Obligations.ResetMeetsTheInvariant : Prop :=
  (∀ (params : Params) (origin : Word), Memory.wf params.mem0 → (State.resetTo params origin).Inv) ∧ State.reset.Inv

/-- The host's operations keep the invariant: a load that succeeds, a stop, the start of a verification. -/
def Obligations.HostOperationsKeepTheInvariant : Prop :=
  ∀ s : State, s.Inv →
    (∀ image origin t, load image origin s = .ok t → t.Inv) ∧ s.stop.Inv ∧ ∀ golden, (s.verify golden).Inv

/-- Every step keeps the invariant: memory in canonical form (R52), P with bit 5 set and bit 4 clear (R28), and a halt
reason that the parameters and the table allow, with PC where that halt leaves it (R37, R75, R123). -/
def Obligations.StepKeepsTheInvariant : Prop :=
  ∀ s t : State, s.Inv → step s = .next t → t.Inv

/-- When the bytes at PC decode to an instruction, the step runs it: `exec` in the state whose PC is past the
instruction's bytes, with no diagnostic emitted yet; if it completes, the entry's cycles are added and the record of the
state before is returned and fed to the verifier; if it halts, nothing is added and the verifier learns of the halt
(R121, R124 to R127). Under `IO_MODEL = ram` the bytes are those of memory, and nothing else moves. That the step itself
feeds the verifier is the model's reading (notes/assumptions/8.md), and so are where `exec` starts (13.md) and that a
fetch from a device window draws (14.md); the emptied diagnostics are its choice (7.md). -/
def Obligations.StepRunsTheDecodedInstruction : Prop :=
  ∀ (s : State) (i : Instr), s.loaded = true → s.run = .running →
    decode (s.fetchBytes i.length).1 = .ok (i, []) →
    let s' := { s with
      pc := s.pc + BitVec.ofNat 16 i.length, diags := [], ioReads := (s.fetchBytes i.length).2.ioReads }
    (step s =
      match exec i s' with
      | .next t =>
        match t.run with
        | .running =>
          .next ({ t with cycles := t.cycles + i.baseCycles }.feedRecord
            (traceRecord s (s.fetchBytes i.length).1 i))
        | .halted r => .next (t.feedHalt r)
      | .fault f => .fault f
      | .refused r => .refused r) ∧
    (s.params.ioModel = .ram →
      s' = { s with pc := s.pc + BitVec.ofNat 16 i.length, diags := [] } ∧
      (s.fetchBytes i.length).1 =
        (List.range i.length).map fun k => s.peek (s.pc + BitVec.ofNat 16 k))

/-- R128, R293: a step of a Halted loop returns the halt reason and changes nothing; before any load a step is refused
(the spec allows the refusal; that it is one is the model's, notes/assumptions/5.md). -/
def Obligations.HaltedStepChangesNothing : Prop :=
  ∀ s : State,
    (s.loaded = true → ∀ r, s.run = .halted r → dispatchStep s = .halted r ∧ step s = .next s) ∧
    (s.loaded = false → step s = .refused .notLoaded)

/-- No step changes the parameters or ends the session, and under `IO_MODEL = ram` none draws from a device or records
a device write (R55). That the parameters of R7 and the session of R290 are fields of State, which no step changes, is
the model's choice (notes/assumptions/6.md and 5.md). -/
def Obligations.StepKeepsTheParameters : Prop :=
  ∀ s t : State, step s = .next t →
    t.params = s.params ∧ t.loaded = s.loaded ∧
    (s.params.ioModel = .ram → t.ioReads = s.ioReads ∧ t.ioWrites = s.ioWrites)

/-- R120, R269, for every parameter value: a step of a loaded machine ends in one of the outcomes of R120 and no other,
each only under its condition, with the opcode address it names: it completes only on a mapped opcode, halts on the
opcode it fetched when that is unmapped, or, under `STACK_POLICY = fault`, on a stack instruction that would wrap S, is
Halted only when it was, and is refused only on an ADC or SBC with D = 1 under `DECIMAL_MODE = refuse`. -/
def Obligations.StepOutcomesAreTheListedOnes : Prop :=
  ∀ s : State, s.loaded = true → let fetched := (s.memRead s.pc).1
    match dispatchStep s with
    | .next _ _ t => s.run = .running ∧ t.run = .running ∧ ∃ r, lookup fetched = some r
    | .halt (.unmappedOpcode op a) t =>
      s.run = .running ∧ a = s.pc ∧ op = fetched ∧ lookup op = none ∧ t.run = .halted (.unmappedOpcode op a)
    | .halt (.stackBoundary k a) t =>
      s.run = .running ∧ a = s.pc ∧ s.params.stackPolicy = .fault ∧ t.run = .halted (.stackBoundary k a) ∧
        ∃ r, lookup fetched = some r ∧ crossesBoundary k r.mnemonic s.sp
    | .halt .stopped _ => False
    | .halted r => s.run = .halted r
    | .refused (.decimalArithmetic a) =>
      s.run = .running ∧ a = s.pc ∧ s.params.decimalMode = .refuse ∧ s.flag .d = true ∧
        ∃ r, lookup fetched = some r ∧ (r.mnemonic = .adc ∨ r.mnemonic = .sbc)
    | .refused .notLoaded => False
    | .refused (.notModelled _) => False
    | .fault _ => False

/-- R126, R127: a completed step returns the record of an instruction whose encoding is the bytes as read, with the
opcode address, the disassembly and the registers of the state before, and adds the entry's base cycles; a step that
halts adds none. That the diagnostics returned are also held in the field `diags` is the model's choice
(notes/assumptions/7.md). -/
def Obligations.CompletedStepRecordsAndCounts : Prop :=
  ∀ s : State,
    (∀ record diags t, dispatchStep s = .next record diags t →
      ∃ i, record.bytes = encode i ∧ record.addr = s.pc ∧ record.text = disasm i s.pc ∧
        record.bytes = (s.fetchBytes i.length).1 ∧
        (record.a, record.x, record.y, record.p, record.sp) = (s.a, s.x, s.y, s.p, s.sp) ∧
        diags = t.diags ∧ t.cycles = s.cycles + i.baseCycles) ∧
    ∀ reason t, dispatchStep s = .halt reason t → t.cycles = s.cycles

/-- No step reads the cycle count (R38), the verifier (R255), the diagnostics (R42) or the recorded device writes
(R55): two states that agree on everything else answer alike, and their next states agree on everything else. -/
def Obligations.StepReadsNoCounterNorVerifier : Prop :=
  ∀ s u : State, s.visible = u.visible →
    (∀ t, step s = .next t → ∃ w, step u = .next w ∧ t.visible = w.visible) ∧
    ∀ r, step s = .refused r → step u = .refused r

/-! ## The resolver -/

/-- What the resolver gives for every mode, in numbers (30_encoding.md R86 to R99, 20_memory.md R58 to R60): the
zero-page sums wrap modulo 256, the others modulo 65,536, a zero-page pointer is two cells of the zero page, an indirect
pointer's high byte comes from the same page under `JMP_IND_PAGE_WRAP`; low bytes first. It changes nothing but the count
of draws, and reads nothing but the pointer bytes; that the operand bytes are read before it, by the fetch, is the model's
reading (notes/assumptions/13.md). -/
def Obligations.ResolverGivesTheModesAddresses : Prop :=
  ∀ (s : State) (z : Byte) (a : Word),
    let zp (n : Nat) : Word := BitVec.ofNat 16 (n % 256)
    let pointer (n : Nat) (t : State) : Nat × State :=
      let l := t.memRead (zp n)
      let h := l.2.memRead (zp (n + 1))
      (l.1.toNat + 256 * h.1.toNat, h.2)
    resolve .imp s = (.none, s) ∧
    resolve .acc s = (.acc, s) ∧
    resolve (.imm z) s = (.imm z, s) ∧
    resolve (.mem (.zp z)) s = (.addr (zp z.toNat), s) ∧
    resolve (.mem (.zpx z)) s = (.addr (zp (z.toNat + s.x.toNat)), s) ∧
    resolve (.mem (.zpy z)) s = (.addr (zp (z.toNat + s.y.toNat)), s) ∧
    resolve (.mem (.abs a)) s = (.addr a, s) ∧
    resolve (.mem (.abx a)) s = (.addr (BitVec.ofNat 16 (a.toNat + s.x.toNat)), s) ∧
    resolve (.mem (.aby a)) s = (.addr (BitVec.ofNat 16 (a.toNat + s.y.toNat)), s) ∧
    (let p := pointer (z.toNat + s.x.toNat) s
     resolve (.mem (.izx z)) s = (.addr (BitVec.ofNat 16 p.1), p.2)) ∧
    (let p := pointer z.toNat s
     resolve (.mem (.izy z)) s = (.addr (BitVec.ofNat 16 (p.1 + s.y.toNat)), p.2)) ∧
    (let hiCell : Word :=
       if s.params.jmpIndPageWrap = true then BitVec.ofNat 16 (a.toNat / 256 * 256 + (a.toNat + 1) % 256)
       else BitVec.ofNat 16 (a.toNat + 1)
     let l := s.memRead a
     let h := l.2.memRead hiCell
     resolve (.ind a) s = (.addr (BitVec.ofNat 16 (l.1.toNat + 256 * h.1.toNat)), h.2)) ∧
    resolve (.rel z) s = (.target (BitVec.ofInt 16 (s.pc.toNat + z.toInt)), s) ∧
    (∀ f, (resolve f s).2 = { s with ioReads := (resolve f s).2.ioReads }) ∧
    (∀ m, effAddr m s = ((effAddr m s).1, (resolve (.mem m) s).2) ∧
      (resolve (.mem m) s).1 = .addr (effAddr m s).1) ∧
    (∀ m, readSource (.mem m) s = (effAddr m s).2.memRead (effAddr m s).1 ∧
      resolvePlace (.mem m) s = (.addr (effAddr m s).1, (effAddr m s).2))

/-! ## Loads and stores -/

/-- R160, R161, R162: LDA, LDX and LDY, in every form, load the operand, write N and Z from it, and change nothing
else. -/
def Obligations.LoadsTakeTheOperand : Prop :=
  ∀ i : Instr, i.mnemonic = .lda ∨ i.mnemonic = .ldx ∨ i.mnemonic = .ldy →
    encodedAsListed i ∧ ∃ src, i.form.source? = some src ∧ ∀ s : State, ∃ t, exec i s = .next t ∧
      let m := readSource src s
      (i.mnemonic = .lda → t = { s with a := m.1, p := t.p, ioReads := m.2.ioReads }) ∧
      (i.mnemonic = .ldx → t = { s with x := m.1, p := t.p, ioReads := m.2.ioReads }) ∧
      (i.mnemonic = .ldy → t = { s with y := m.1, p := t.p, ioReads := m.2.ioReads }) ∧
      WritesFlags s.p t.p (nzOf m.1) ∧ s.sameMemory t

/-- R163, R164, R165: STA, STX and STY, in every form, store the register to the effective address, which they do not
read, write no flag, and change nothing else. What a store to a device window leaves under `IO_MODEL = oracle` is the
model's reading (notes/assumptions/10.md). -/
def Obligations.StoresWriteTheRegister : Prop :=
  ∀ i : Instr, i.mnemonic = .sta ∨ i.mnemonic = .stx ∨ i.mnemonic = .sty →
    encodedAsListed i ∧ ∃ m, i.form.memForm? = some m ∧ ∀ s : State, ∃ t, exec i s = .next t ∧
      let ea := effAddr m s
      t = { s with mem := t.mem, ioWrites := t.ioWrites, ioReads := ea.2.ioReads } ∧
      (i.mnemonic = .sta → Stores s t ea.1 s.a) ∧
      (i.mnemonic = .stx → Stores s t ea.1 s.x) ∧
      (i.mnemonic = .sty → Stores s t ea.1 s.y)

/-! ## Arithmetic and logic -/

/-- R181: ADC, in every form, adds the operand and the carry to A, writes C, V, N and Z by the formulas of R181, and
changes nothing else; with `DECIMAL_MODE = refuse` and D set it is refused instead. -/
def Obligations.AdcAddsWithCarry : Prop :=
  ∀ i : Instr, i.mnemonic = .adc →
    encodedAsListed i ∧ ∃ src, i.form.source? = some src ∧ ∀ s : State,
      (s.params.decimalMode = .refuse ∧ s.flag .d = true →
        exec i s = .refused (.decimalArithmetic (s.pc - BitVec.ofNat 16 i.length))) ∧
      (¬ (s.params.decimalMode = .refuse ∧ s.flag .d = true) → ∃ t, exec i s = .next t ∧
      let m := readSource src s
      let sum := s.a.toNat + m.1.toNat + (s.flag .c).toNat
      let r := BitVec.ofNat 8 sum
      t = { s with a := r, p := t.p, ioReads := m.2.ioReads } ∧
      WritesFlags s.p t.p ((.c, 0xFF < sum) :: (.v, ((s.a ^^^ r) &&& (m.1 ^^^ r) &&& 0x80#8) ≠ 0#8) :: nzOf r) ∧
      s.sameMemory t)

/-- R182: SBC, in every form, adds the complemented operand and the carry to A, writes C, V, N and Z by the formulas of
R182, and changes nothing else; with `DECIMAL_MODE = refuse` and D set it is refused instead. -/
def Obligations.SbcSubtractsWithBorrow : Prop :=
  ∀ i : Instr, i.mnemonic = .sbc →
    encodedAsListed i ∧ ∃ src, i.form.source? = some src ∧ ∀ s : State,
      (s.params.decimalMode = .refuse ∧ s.flag .d = true →
        exec i s = .refused (.decimalArithmetic (s.pc - BitVec.ofNat 16 i.length))) ∧
      (¬ (s.params.decimalMode = .refuse ∧ s.flag .d = true) → ∃ t, exec i s = .next t ∧
      let m := readSource src s
      let n := m.1 ^^^ 0xFF#8
      let sum := s.a.toNat + n.toNat + (s.flag .c).toNat
      let r := BitVec.ofNat 8 sum
      t = { s with a := r, p := t.p, ioReads := m.2.ioReads } ∧
      WritesFlags s.p t.p ((.c, 0xFF < sum) :: (.v, ((s.a ^^^ r) &&& (n ^^^ r) &&& 0x80#8) ≠ 0#8) :: nzOf r) ∧
      s.sameMemory t)

/-- R191: the carry and overflow laws. After ADC, V is set exactly when the sum of the two's-complement readings and C
lies outside -128 to +127, exactly when A and M agree in bit 7 and the result does not, and C exactly when the unsigned
sum is at least 256; after SBC, V is set exactly when the signed difference lies outside that range, and C exactly when
A is at least M + (1 - C). -/
def Obligations.OverflowAndCarryLaws : Prop :=
  ∀ (i : Instr) (src : Source) (s t : State), i.form.source? = some src → exec i s = .next t →
    let m := (readSource src s).1
    let c : Nat := (s.flag .c).toNat
    (i.mnemonic = .adc →
      (t.flag .v = true ↔ s.a.toInt + m.toInt + c < -128 ∨ 127 < s.a.toInt + m.toInt + c) ∧
      (t.flag .v = true ↔ s.a.getLsbD 7 = m.getLsbD 7 ∧ t.a.getLsbD 7 ≠ s.a.getLsbD 7) ∧
      (t.flag .c = true ↔ 256 ≤ s.a.toNat + m.toNat + c)) ∧
    (i.mnemonic = .sbc →
      (t.flag .v = true ↔
        s.a.toInt - m.toInt - (1 - (c : Int)) < -128 ∨ 127 < s.a.toInt - m.toInt - (1 - (c : Int))) ∧
      (t.flag .c = true ↔ m.toNat + (1 - c) ≤ s.a.toNat))

/-- R264: an instruction is refused exactly when it is an ADC or an SBC with D = 1 under `DECIMAL_MODE = refuse`, and
the refusal carries the opcode address; so under `binary` no instruction ever is. -/
def Obligations.OnlyDecimalArithmeticIsRefused : Prop :=
  ∀ (i : Instr) (s : State) (r : Refusal), exec i s = .refused r ↔
    (i.mnemonic = .adc ∨ i.mnemonic = .sbc) ∧ s.params.decimalMode = .refuse ∧ s.flag .d = true ∧
      r = .decimalArithmetic (s.pc - BitVec.ofNat 16 i.length)

/-- R183, R184, R185: AND, ORA and EOR, in every form, combine A with the operand bit by bit, write N and Z from the
result, and change nothing else. -/
def Obligations.LogicCombinesBitByBit : Prop :=
  ∀ i : Instr, i.mnemonic = .and ∨ i.mnemonic = .ora ∨ i.mnemonic = .eor →
    encodedAsListed i ∧ ∃ src, i.form.source? = some src ∧ ∀ s : State, ∃ t, exec i s = .next t ∧
      let m := readSource src s
      t = { s with a := t.a, p := t.p, ioReads := m.2.ioReads } ∧
      (∀ k, t.a.getLsbD k =
        if i.mnemonic = .and then s.a.getLsbD k && m.1.getLsbD k
        else if i.mnemonic = .ora then s.a.getLsbD k || m.1.getLsbD k
        else s.a.getLsbD k != m.1.getLsbD k) ∧
      WritesFlags s.p t.p (nzOf t.a) ∧ s.sameMemory t

/-- R186, R187, R188, R189: CMP, CPX and CPY, in every form, write C when the register is at least the operand, Z when
they are equal, N from bit 7 of the wrapped difference, and change nothing else. -/
def Obligations.ComparesWriteNZC : Prop :=
  ∀ i : Instr, i.mnemonic = .cmp ∨ i.mnemonic = .cpx ∨ i.mnemonic = .cpy →
    encodedAsListed i ∧ ∃ src, i.form.source? = some src ∧ ∀ s : State, ∃ t, exec i s = .next t ∧
      let m := readSource src s
      let r := if i.mnemonic = .cmp then s.a else if i.mnemonic = .cpx then s.x else s.y
      t = { s with p := t.p, ioReads := m.2.ioReads } ∧
      WritesFlags s.p t.p
        [(.c, m.1.toNat ≤ r.toNat), (.z, r = m.1), (.n, 128 ≤ (r.toNat + 256 - m.1.toNat) % 256)] ∧
      s.sameMemory t

/-- R190: BIT, in both forms, writes Z from A and M, N from bit 7 and V from bit 6 of M, and changes nothing else. -/
def Obligations.BitTestsTheOperand : Prop :=
  ∀ i : Instr, i.mnemonic = .bit →
    encodedAsListed i ∧ ∃ src, i.form.source? = some src ∧ ∀ s : State, ∃ t, exec i s = .next t ∧
      let m := readSource src s
      t = { s with p := t.p, ioReads := m.2.ioReads } ∧
      WritesFlags s.p t.p [(.z, (s.a &&& m.1) = 0#8), (.n, m.1.getLsbD 7), (.v, m.1.getLsbD 6)] ∧
      s.sameMemory t

/-! ## Shifts, increments, transfers -/

/-- R200, R201, R202, R203: ASL, LSR, ROL and ROR, on A and on every memory form, read the place once, write the shifted
number back to it, C from the bit shifted out, N and Z from the result, and change nothing else. What the write to a
device window leaves under `IO_MODEL = oracle` is the model's reading (notes/assumptions/10.md). -/
def Obligations.ShiftsMoveOneBit : Prop :=
  ∀ i : Instr, i.mnemonic = .asl ∨ i.mnemonic = .lsr ∨ i.mnemonic = .rol ∨ i.mnemonic = .ror →
    encodedAsListed i ∧ ∃ pl, i.form.place? = some pl ∧ ∀ s : State,
      let l := resolvePlace pl s
      let v := l.2.readLoc l.1
      ∃ t r c, exec i s = .next t ∧ shiftedTo i.mnemonic v.1.toNat (s.flag .c).toNat = some (r, c) ∧ r < 256 ∧
        WrittenBack s t l.1 (BitVec.ofNat 8 r) v.2.ioReads ∧
        WritesFlags s.p t.p ((.c, c) :: nzOf (BitVec.ofNat 8 r))

/-- R204, R205: INC and DEC, in every form, read the cell once, write it back plus or minus 1 modulo 256, N and Z from
the result, and change nothing else. What the write to a device window leaves under `IO_MODEL = oracle` is the model's
reading (notes/assumptions/10.md). -/
def Obligations.IncDecChangeTheCell : Prop :=
  ∀ i : Instr, i.mnemonic = .inc ∨ i.mnemonic = .dec →
    encodedAsListed i ∧ ∃ m, i.form.memForm? = some m ∧ ∀ s : State,
      let ea := effAddr m s
      let v := ea.2.memRead ea.1
      let r := BitVec.ofNat 8 (v.1.toNat + if i.mnemonic = .inc then 1 else 255)
      ∃ t, exec i s = .next t ∧ WrittenBack s t (.addr ea.1) r v.2.ioReads ∧ WritesFlags s.p t.p (nzOf r)

/-- R206, R207, R208, R209: INX, INY, DEX and DEY add or subtract 1 modulo 256, write N and Z from the result, and
change nothing else. -/
def Obligations.RegisterIncrementsWrap : Prop :=
  (∀ i : Instr, i = .inx ∨ i = .iny ∨ i = .dex ∨ i = .dey → encodedAsListed i) ∧
  ∀ s : State,
    (∃ t, exec .inx s = .next t ∧ t = { s with x := BitVec.ofNat 8 (s.x.toNat + 1), p := t.p } ∧
      WritesFlags s.p t.p (nzOf t.x) ∧ s.sameMemory t) ∧
    (∃ t, exec .iny s = .next t ∧ t = { s with y := BitVec.ofNat 8 (s.y.toNat + 1), p := t.p } ∧
      WritesFlags s.p t.p (nzOf t.y) ∧ s.sameMemory t) ∧
    (∃ t, exec .dex s = .next t ∧ t = { s with x := BitVec.ofNat 8 (s.x.toNat + 255), p := t.p } ∧
      WritesFlags s.p t.p (nzOf t.x) ∧ s.sameMemory t) ∧
    (∃ t, exec .dey s = .next t ∧ t = { s with y := BitVec.ofNat 8 (s.y.toNat + 255), p := t.p } ∧
      WritesFlags s.p t.p (nzOf t.y) ∧ s.sameMemory t)

/-- R220 to R225: each transfer copies its source to its destination; all but TXS write N and Z from the value, TXS
writes no flag; nothing else changes. -/
def Obligations.TransfersCopyTheRegister : Prop :=
  (∀ i : Instr, i = .tax ∨ i = .tay ∨ i = .txa ∨ i = .tya ∨ i = .tsx ∨ i = .txs → encodedAsListed i) ∧
  ∀ s : State,
    (∃ t, exec .tax s = .next t ∧ t = { s with x := s.a, p := t.p } ∧ WritesFlags s.p t.p (nzOf s.a) ∧
      s.sameMemory t) ∧
    (∃ t, exec .tay s = .next t ∧ t = { s with y := s.a, p := t.p } ∧ WritesFlags s.p t.p (nzOf s.a) ∧
      s.sameMemory t) ∧
    (∃ t, exec .txa s = .next t ∧ t = { s with a := s.x, p := t.p } ∧ WritesFlags s.p t.p (nzOf s.x) ∧
      s.sameMemory t) ∧
    (∃ t, exec .tya s = .next t ∧ t = { s with a := s.y, p := t.p } ∧ WritesFlags s.p t.p (nzOf s.y) ∧
      s.sameMemory t) ∧
    (∃ t, exec .tsx s = .next t ∧ t = { s with x := s.sp, p := t.p } ∧ WritesFlags s.p t.p (nzOf s.sp) ∧
      s.sameMemory t) ∧
    ∃ t, exec .txs s = .next t ∧ t = { s with sp := s.x } ∧ s.sameMemory t

/-! ## The stack -/

/-- R226, R228: PHA pushes A and PHP pushes P with bits 5 and 4 set: the byte goes to 0x0100 + S, S goes down by 1
modulo 256, a push at S = 0x00 emits the diagnostic with the opcode address, and nothing else changes. Under
`STACK_POLICY = fault` this is so while S is not 0x00, and at S = 0x00 the instruction is abandoned (R75). That the
optional diagnostic of R74 is always emitted, and held in `diags`, is the model's choice (notes/assumptions/7.md). -/
def Obligations.PushesStoreAtTheStackTop : Prop :=
  (encodedAsListed .pha ∧ encodedAsListed .php) ∧
  ∀ (i : Instr) (v : Byte) (s : State), (i = .pha ∧ v = s.a) ∨ (i = .php ∧ v = s.p ||| 0x30#8) →
    (s.params.stackPolicy = .fault → s.sp.toNat < 1 → abandons i s .push) ∧
    (s.params.stackPolicy = .wrap ∨ 1 ≤ s.sp.toNat → ∃ t, exec i s = .next t ∧
      t = { s with
        sp := BitVec.ofNat 8 (s.sp.toNat + 255), mem := t.mem
        diags := s.diags ++ wrapDiag (s.sp.toNat = 0) .push (s.pc - 1) } ∧
      t.peek (stackCell s.sp.toNat) = v ∧
      ∀ b, canon b ≠ stackCell s.sp.toNat → t.peek b = s.peek b)

/-- R227, R229: PLA loads A and PLP loads P from the byte at 0x0100 + (S + 1), S goes up by 1 modulo 256, a pop at S =
0xFF emits the diagnostic with the opcode address, PLA writes N and Z, PLP the six flags with bit 5 set and bit 4
clear, and nothing else changes. Under `STACK_POLICY = fault` this is so while S is not 0xFF, and at S = 0xFF the
instruction is abandoned (R75). That the optional diagnostic of R74 is always emitted, and held in `diags`, is the
model's choice (notes/assumptions/7.md). -/
def Obligations.PullsLoadTheStackTop : Prop :=
  (encodedAsListed .pla ∧ encodedAsListed .plp) ∧
  ∀ s : State,
    (s.params.stackPolicy = .fault → 255 < s.sp.toNat + 1 → abandons .pla s .pop ∧ abandons .plp s .pop) ∧
    (s.params.stackPolicy = .wrap ∨ s.sp.toNat + 1 ≤ 255 →
    let v := s.peek (stackCell (s.sp.toNat + 1))
    let popped := { s with
      sp := BitVec.ofNat 8 (s.sp.toNat + 1)
      diags := s.diags ++ wrapDiag (s.sp.toNat = 255) .pop (s.pc - 1) }
    (∃ t, exec .pla s = .next t ∧ t = { popped with a := v, p := t.p } ∧ WritesFlags s.p t.p (nzOf v) ∧
      s.sameMemory t) ∧
    ∃ t, exec .plp s = .next t ∧ t = { popped with p := (v &&& 0xCF#8) ||| 0x20#8 } ∧ s.sameMemory t)

/-- R75, R263: under `STACK_POLICY = fault` a step whose instruction has a push that would start at S = 0x00, or a pop
at S = 0xFF, halts the loop with nothing changed but the halt itself: PC is the opcode address, no record comes out, no
cycle is added. That no diagnostic comes out is the model's reading (notes/assumptions/15.md), that the field of the
diagnostics is emptied its choice (7.md), and so is the count of device draws, which alone shows the fetch (4.md). -/
def Obligations.StackBoundaryHaltsTheStep : Prop :=
  ∀ (i : Instr) (n : Nat) (k : StackKind) (s : State), s.loaded = true → s.run = .running →
    s.params.stackPolicy = .fault → (s.fetchBytes i.length).1 = encode i →
    (k = .push ∧ (i.mnemonic, n) ∈ [(.pha, 1), (.php, 1), (.jsr, 2), (.brk, 3)] ∧ s.sp.toNat < n) ∨
      (k = .pop ∧ (i.mnemonic, n) ∈ [(.pla, 1), (.plp, 1), (.rts, 2), (.rti, 3)] ∧ 255 < s.sp.toNat + n) →
    dispatchStep s = .halt (.stackBoundary k s.pc)
      { s with
        run := .halted (.stackBoundary k s.pc), diags := [], ioReads := (s.fetchBytes i.length).2.ioReads }

/-! ## Flags and branches -/

/-- R170 to R176: each flag instruction writes its one flag and changes nothing else. -/
def Obligations.FlagInstructionsWriteOneFlag : Prop :=
  ∀ (i : Instr) (f : StatusFlag) (b : Bool),
    (i, f, b) ∈ [(.clc, .c, false), (.sec, .c, true), (.cli, .i, false), (.sei, .i, true), (.clv, .v, false),
      (.cld, .d, false), (.sed, .d, true)] →
    encodedAsListed i ∧ ∀ s : State, ∃ t, exec i s = .next t ∧ t = { s with p := t.p } ∧
      WritesFlags s.p t.p [(f, b)] ∧ s.sameMemory t

/-- R177: NOP changes nothing in its handler, and the step that runs it moves PC by 1 and adds its 2 cycles (R127, R300);
at 0xC000 with A, X and Y 0, P = 0x24 and S = 0xFD its record has the line the rule gives. The emptied diagnostics and the
count of draws are the model's own fields (notes/assumptions/7.md and 4.md). -/
def Obligations.NopOnlyMovesPc : Prop :=
  encodedAsListed .nop ∧ (∀ s : State, exec .nop s = .next s) ∧
  ∀ s : State, s.loaded = true → s.run = .running → (s.memRead s.pc).1 = 0xEA →
    ∃ record, dispatchStep s = .next record []
        { s with
          pc := s.pc + 1, cycles := s.cycles + 2, diags := [], ioReads := (s.memRead s.pc).2.ioReads } ∧
      (s.pc = 0xC000 → s.a = 0 → s.x = 0 → s.y = 0 → s.p = 0x24 → s.sp = 0xFD →
        formatLine record = "C000  EA        NOP                             A:00 X:00 Y:00 P:24 SP:FD".toList)

/-- R140 to R148: each branch takes PC to the target, PC past the branch plus the signed offset modulo 65,536, exactly
when its flag has its value, and changes nothing else. -/
def Obligations.BranchesTestOneFlag : Prop :=
  ∀ (i : Instr) (f : StatusFlag) (b : Bool),
    (i.mnemonic, f, b) ∈ [(.bpl, .n, false), (.bmi, .n, true), (.bvc, .v, false), (.bvs, .v, true),
      (.bcc, .c, false), (.bcs, .c, true), (.bne, .z, false), (.beq, .z, true)] →
    encodedAsListed i ∧ ∃ off, i.form = .rel off ∧ ∀ s : State,
      exec i s = .next
        { s with pc := if s.flag f = b then BitVec.ofInt 16 (s.pc.toNat + off.toInt) else s.pc }

/-! ## Control -/

/-- R150, R60: JMP takes PC to the operand field, or, indirect, to the 16-bit value at the pointer, whose high byte comes
from the same page under `JMP_IND_PAGE_WRAP`; nothing else changes. -/
def Obligations.JumpsTakeTheTarget : Prop :=
  (∀ i : Instr, i.mnemonic = .jmp → encodedAsListed i ∧ ((∃ a, i = .jmpAbs a) ∨ ∃ p, i = .jmpInd p)) ∧
  ∀ (s : State) (a : Word),
    exec (.jmpAbs a) s = .next { s with pc := a } ∧
    let hiCell : Word :=
      if s.params.jmpIndPageWrap = true then BitVec.ofNat 16 (a.toNat / 256 * 256 + (a.toNat + 1) % 256)
      else BitVec.ofNat 16 (a.toNat + 1)
    let l := s.memRead a
    let h := l.2.memRead hiCell
    exec (.jmpInd a) s =
      .next { s with pc := BitVec.ofNat 16 (l.1.toNat + 256 * h.1.toNat), ioReads := h.2.ioReads }

/-- R151: JSR pushes the high byte, then the low byte, of the return address minus 1, and takes PC to the target; only
those two stack bytes change, S goes down by 2 modulo 256, and a push that wraps emits the diagnostic. Under
`STACK_POLICY = fault` this is so with S at least 2, and below it the instruction is abandoned (R75). That the
optional diagnostic of R74 is always emitted, and held in `diags`, is the model's choice (notes/assumptions/7.md). -/
def Obligations.JsrPushesTheReturnAddress : Prop :=
  ∀ (a : Word) (s : State), encodedAsListed (.jsr a) ∧
    (s.params.stackPolicy = .fault → s.sp.toNat < 2 → abandons (.jsr a) s .push) ∧
    (s.params.stackPolicy = .wrap ∨ 2 ≤ s.sp.toNat → ∃ t, exec (.jsr a) s = .next t ∧
      let ret := (s.pc - 1).toNat
      t = { s with
        pc := a, sp := BitVec.ofNat 8 (s.sp.toNat + 254), mem := t.mem
        diags := s.diags ++ wrapDiag (s.sp.toNat < 2) .push (s.pc - 3) } ∧
      t.peek (stackCell s.sp.toNat) = BitVec.ofNat 8 (ret / 256) ∧
      t.peek (stackCell (s.sp.toNat + 255)) = BitVec.ofNat 8 ret ∧
      ∀ b, canon b ≠ stackCell s.sp.toNat → canon b ≠ stackCell (s.sp.toNat + 255) → t.peek b = s.peek b)

/-- R152: RTS pops the low byte, then the high byte, and takes PC to that address plus 1; S goes up by 2 modulo 256, a
pop that wraps emits the diagnostic, and no flag, register or byte of memory changes. Under `STACK_POLICY = fault`
this is so with S at most 0xFD, and above it the instruction is abandoned (R75). That the optional diagnostic of R74
is always emitted, and held in `diags`, is the model's choice (notes/assumptions/7.md). -/
def Obligations.RtsReturns : Prop :=
  encodedAsListed .rts ∧ ∀ s : State,
    (s.params.stackPolicy = .fault → 255 < s.sp.toNat + 2 → abandons .rts s .pop) ∧
    (s.params.stackPolicy = .wrap ∨ s.sp.toNat + 2 ≤ 255 →
    let lo := s.peek (stackCell (s.sp.toNat + 1))
    let hi := s.peek (stackCell (s.sp.toNat + 2))
    exec .rts s = .next { s with
      pc := BitVec.ofNat 16 (lo.toNat + 256 * hi.toNat + 1), sp := BitVec.ofNat 8 (s.sp.toNat + 2)
      diags := s.diags ++ wrapDiag (254 ≤ s.sp.toNat) .pop (s.pc - 1) })

/-- R153: BRK pushes the address of the opcode plus 2, high byte first, and P with bits 5 and 4 set, sets I, and takes
PC to the 16-bit value at 0xFFFE; only those three stack bytes and no other flag change, whatever I is. Under
`STACK_POLICY = fault` this is so with S at least 3, and below it the instruction is abandoned (R75). That the
optional diagnostic of R74 is always emitted, and held in `diags`, is the model's choice (notes/assumptions/7.md). -/
def Obligations.BrkTakesTheVector : Prop :=
  encodedAsListed .brk ∧ ∀ s : State,
    (s.params.stackPolicy = .fault → s.sp.toNat < 3 → abandons .brk s .push) ∧
    (s.params.stackPolicy = .wrap ∨ 3 ≤ s.sp.toNat → ∃ t, exec .brk s = .next t ∧
      let ret := (s.pc + 1).toNat
      t = { s with
        pc := BitVec.ofNat 16 ((s.peek 0xFFFE).toNat + 256 * (s.peek 0xFFFF).toNat)
        sp := BitVec.ofNat 8 (s.sp.toNat + 253), p := t.p, mem := t.mem
        diags := s.diags ++ wrapDiag (s.sp.toNat < 3) .push (s.pc - 1) } ∧
      WritesFlags s.p t.p [(.i, true)] ∧
      t.peek (stackCell s.sp.toNat) = BitVec.ofNat 8 (ret / 256) ∧
      t.peek (stackCell (s.sp.toNat + 255)) = BitVec.ofNat 8 ret ∧
      t.peek (stackCell (s.sp.toNat + 254)) = s.p ||| 0x30#8 ∧
      ∀ b, canon b ≠ stackCell s.sp.toNat → canon b ≠ stackCell (s.sp.toNat + 255) →
        canon b ≠ stackCell (s.sp.toNat + 254) → t.peek b = s.peek b)

/-- R154: RTI pops P, its bit 5 set and bit 4 clear, then PC, low byte first, with no plus 1; S goes up by 3 modulo
256, and no other register and no byte of memory changes. Under `STACK_POLICY = fault` this is so with S at most 0xFC,
and above it the instruction is abandoned (R75). That the optional diagnostic of R74 is always emitted, and held in
`diags`, is the model's choice (notes/assumptions/7.md). -/
def Obligations.RtiRestoresStatusAndPc : Prop :=
  encodedAsListed .rti ∧ ∀ s : State,
    (s.params.stackPolicy = .fault → 255 < s.sp.toNat + 3 → abandons .rti s .pop) ∧
    (s.params.stackPolicy = .wrap ∨ s.sp.toNat + 3 ≤ 255 →
    let v := s.peek (stackCell (s.sp.toNat + 1))
    let lo := s.peek (stackCell (s.sp.toNat + 2))
    let hi := s.peek (stackCell (s.sp.toNat + 3))
    exec .rti s = .next { s with
      p := (v &&& 0xCF#8) ||| 0x20#8
      pc := BitVec.ofNat 16 (lo.toNat + 256 * hi.toNat), sp := BitVec.ofNat 8 (s.sp.toNat + 3)
      diags := s.diags ++ wrapDiag (253 ≤ s.sp.toNat) .pop (s.pc - 1) })

/-- R155, the JSR/RTS round trip: after a JSR at `a0` with stack pointer `s.sp`, from any state that kept S and the two
bytes, RTS returns to `a0` plus 3 (the handler's PC) with S back; under `STACK_POLICY = fault` with S at least 2. -/
def Obligations.RtsUndoesJsr : Prop :=
  ∀ (a : Word) (s t u : State), s.params.stackPolicy = .wrap ∨ 2 ≤ s.sp.toNat →
    exec (.jsr a) s = .next t → u.params = s.params → u.sp = t.sp →
    u.peek (stackCell s.sp.toNat) = t.peek (stackCell s.sp.toNat) →
    u.peek (stackCell (s.sp.toNat + 255)) = t.peek (stackCell (s.sp.toNat + 255)) →
    t.pc = a ∧ ∃ w, exec .rts u = .next w ∧ w.pc = s.pc ∧ w.sp = s.sp

/-- R271: after a BRK, from any state that kept S and the three bytes, RTI returns to the BRK's address plus 2 with S
back and P as it was, bit 5 set and bit 4 clear. -/
def Obligations.RtiUndoesBrk : Prop :=
  ∀ s t u : State, s.params.stackPolicy = .wrap ∨ 3 ≤ s.sp.toNat →
    exec .brk s = .next t → u.params = s.params → u.sp = t.sp →
    (∀ k, k < 3 → u.peek (stackCell (s.sp.toNat + 256 - k)) = t.peek (stackCell (s.sp.toNat + 256 - k))) →
    ∃ w, exec .rti u = .next w ∧ w.pc = s.pc + 1 ∧ w.sp = s.sp ∧
      (∀ f, w.flag f = s.flag f) ∧ (s.p[5] = true → s.p[4] = false → w.p = s.p)

/-! ## Whole-machine rules -/

/-- R21 to R24, writers: an instruction that changes A, X, Y or S is one of those its rule lists. -/
def Obligations.RegistersHaveOnlyTheirWriters : Prop :=
  ∀ (i : Instr) (s t : State), exec i s = .next t →
    (t.a ≠ s.a → i.mnemonic ∈ [.lda, .pla, .txa, .tya, .adc, .sbc, .and, .ora, .eor] ∨
      (i.mnemonic ∈ [.asl, .lsr, .rol, .ror] ∧ i.form = .acc)) ∧
    (t.x ≠ s.x → i.mnemonic ∈ [.ldx, .tax, .tsx, .inx, .dex]) ∧
    (t.y ≠ s.y → i.mnemonic ∈ [.ldy, .tay, .iny, .dey]) ∧
    (t.sp ≠ s.sp → i.mnemonic ∈ [.txs, .pha, .php, .pla, .plp, .jsr, .rts, .brk, .rti])

/-- R21, R22, R23, readers: an instruction that is not one of those the rule lists, nor of the modes it lists, answers
the same whatever the register holds, but for that register. -/
def Obligations.RegistersHaveOnlyTheirReaders : Prop :=
  ∀ (i : Instr) (s : State) (v : Byte),
    (¬ (i.mnemonic ∈ [.sta, .pha, .tax, .tay, .adc, .sbc, .and, .ora, .eor, .cmp, .bit] ∨
        (i.mnemonic ∈ [.asl, .lsr, .rol, .ror] ∧ i.form = .acc)) →
      mapNext (fun t => { t with a := 0 }) (exec i { s with a := v }) =
        mapNext (fun t => { t with a := 0 }) (exec i s)) ∧
    (¬ (i.mnemonic ∈ [.stx, .txa, .txs, .cpx, .inx, .dex] ∨ i.form.mode ∈ [.zpx, .abx, .izx]) →
      mapNext (fun t => { t with x := 0 }) (exec i { s with x := v }) =
        mapNext (fun t => { t with x := 0 }) (exec i s)) ∧
    (¬ (i.mnemonic ∈ [.sty, .tya, .cpy, .iny, .dey] ∨ i.form.mode ∈ [.zpy, .aby, .izy]) →
      mapNext (fun t => { t with y := 0 }) (exec i { s with y := v }) =
        mapNext (fun t => { t with y := 0 }) (exec i s))

/-- R29 to R34, writers: an instruction that changes a flag is one of those its rule lists. -/
def Obligations.FlagsHaveOnlyTheirWriters : Prop :=
  ∀ (i : Instr) (s t : State), exec i s = .next t →
    (t.flag .n ≠ s.flag .n ∨ t.flag .z ≠ s.flag .z →
      i.mnemonic ∈ [.lda, .ldx, .ldy, .tax, .tay, .txa, .tya, .tsx, .pla, .inx, .iny, .dex, .dey, .inc, .dec, .adc,
        .sbc, .and, .ora, .eor, .asl, .lsr, .rol, .ror, .cmp, .cpx, .cpy, .bit, .plp, .rti]) ∧
    (t.flag .v ≠ s.flag .v → i.mnemonic ∈ [.adc, .sbc, .bit, .clv, .plp, .rti]) ∧
    (t.flag .d ≠ s.flag .d → i.mnemonic ∈ [.cld, .sed, .plp, .rti]) ∧
    (t.flag .i ≠ s.flag .i → i.mnemonic ∈ [.cli, .sei, .brk, .plp, .rti]) ∧
    (t.flag .c ≠ s.flag .c →
      i.mnemonic ∈ [.adc, .sbc, .cmp, .cpx, .cpy, .asl, .rol, .lsr, .ror, .clc, .sec, .plp, .rti])

/-- Only the stores, the memory forms of the read-modify-write instructions and the pushes change a byte of memory
(R101, R71). -/
def Obligations.MemoryHasOnlyItsWriters : Prop :=
  ∀ (i : Instr) (s t : State) (b : Word), exec i s = .next t → t.peek b ≠ s.peek b →
    i.mnemonic ∈ [.sta, .stx, .sty, .inc, .dec, .pha, .php, .jsr, .brk] ∨
      (i.mnemonic ∈ [.asl, .lsr, .rol, .ror] ∧ i.form ≠ .acc)

/-- R25, R125: a handler that completes and leaves PC elsewhere than at the next sequential instruction is a branch,
JMP, JSR, RTS, BRK or RTI; only a StackBoundary halt moves it back. -/
def Obligations.PcHasOnlyItsWriters : Prop :=
  ∀ (i : Instr) (s t : State), exec i s = .next t → t.pc ≠ s.pc →
    i.mnemonic ∈ [.bpl, .bmi, .bvc, .bvs, .bcc, .bcs, .bne, .beq, .jmp, .jsr, .rts, .brk, .rti] ∨
      ∃ k a, t.run = .halted (.stackBoundary k a)

/-- R28: no instruction changes bit 5 or bit 4 of P but PLP and RTI, which force them to 1 and 0. -/
def Obligations.BreakAndUnusedBitsAreFixed : Prop :=
  ∀ (i : Instr) (s t : State), exec i s = .next t →
    (t.p[5] = s.p[5] ∧ t.p[4] = s.p[4]) ∨
      (i.mnemonic ∈ [.plp, .rti] ∧ t.p[5] = true ∧ t.p[4] = false)

/-! ## The trace and the host -/

/-- R243: every line is exactly 73 characters: the address at columns 0 to 3, spaces at 4 and 5, the bytes from column
6, spaces up to column 15, the disassembly, at most 11 characters (R242), from column 16, spaces up to column 47, and the
snapshot from column 48. -/
def Obligations.TraceLinesAre73Characters : Prop :=
  ∀ (i : Instr) (s : State), let text := formatLine (traceRecord s (encode i) i)
    text.length = 73 ∧ text.take 4 = hex4 s.pc ∧ text[4]? = some ' ' ∧ text[5]? = some ' ' ∧
    (text.drop 6).take (3 * i.length - 1) = List.intercalate [' '] ((encode i).map hex2) ∧
    (∀ k, 6 + (3 * i.length - 1) ≤ k → k < 16 → text[k]? = some ' ') ∧
    (disasm i s.pc).length ≤ 11 ∧ (text.drop 16).take (disasm i s.pc).length = disasm i s.pc ∧
    (∀ k, 16 + (disasm i s.pc).length ≤ k → k < 48 → text[k]? = some ' ') ∧
    text.drop 48 = "A:".toList ++ hex2 s.a ++ " X:".toList ++ hex2 s.x ++ " Y:".toList ++ hex2 s.y ++
      " P:".toList ++ hex2 s.p ++ " SP:".toList ++ hex2 s.sp

/-- R250, R253: fed produced lines one after the other, the verifier reports the first line that differs, with both
lines and its position, and nothing after it changes that; it passes when the golden lines run out first; while it is
comparing every line so far matched. Lines are compared exactly, the golden one after `normLine`, which takes one trailing
LF or CR LF away and nothing else (R252), and both after `truncLine`, which keeps the first `TRACE_CMP_COLS` characters,
or all of a shorter line, and so the whole of a produced line from 73 on (R251). -/
def Obligations.VerifierReportsTheFirstDivergence : Prop :=
  (∀ (cols : Nat) (gs ps : List Line),
    match (verified cols gs ps).status with
    | .mismatch expected actual k =>
      gs[k]? = some expected ∧ ps[k]? = some actual ∧ truncLine cols (normLine expected) ≠ truncLine cols actual ∧
        (verified cols gs ps).index = k ∧ ∀ j, j < k → linesMatch cols gs ps j
    | .passed k signal => signal = none ∧ k = gs.length ∧ k < ps.length ∧ ∀ j, j < k → linesMatch cols gs ps j
    | .comparing => (verified cols gs ps).index = ps.length ∧ ∀ j, j < ps.length → linesMatch cols gs ps j) ∧
  (∀ text : Line,
    normLine (text ++ ['\r', '\n']) = text ∧
    (text.getLast? ≠ some '\r' → normLine (text ++ ['\n']) = text) ∧
    (text.getLast? ≠ some '\n' → normLine text = text)) ∧
  (∀ (cols : Nat) (text : Line), (truncLine cols text).length = min cols text.length ∧
    ∀ k, k < cols → (truncLine cols text)[k]? = text[k]?) ∧
  ∀ (cols : Nat) (i : Instr) (s : State), 73 ≤ cols →
    truncLine cols (formatLine (traceRecord s (encode i) i)) = formatLine (traceRecord s (encode i) i)

/-- R255, R254, R131: the verifier writes only its own state, so a step does the same with any verifier or none; a
completed step feeds it the produced line, and a halt, while it compares, makes it pass with the halt signal. That the
step itself feeds it is the model's reading (notes/assumptions/8.md), and that the status carries the halt reason its
choice (12.md). -/
def Obligations.VerifierIsIsolatedAndInLockstep : Prop :=
  ∀ (s : State) (v : Option Verifier),
    mapNext (fun t => { t with verifier := none }) (step { s with verifier := v }) =
      mapNext (fun t => { t with verifier := none }) (step s) ∧
    (∀ record diags t, dispatchStep s = .next record diags t →
      step s = .next { t with
        verifier := s.verifier.map fun w => w.step s.params.traceCmpCols (formatLine record) }) ∧
    ∀ reason t golden k, dispatchStep s = .halt reason t → s.verifier = some ⟨golden, k, .comparing⟩ →
      step s = .next { t with verifier := some ⟨golden, k, .passed k (some reason)⟩ }

/-- R130, R131: `stop` halts a Running loop with reason Stopped, changing no register, flag or byte, and does nothing to
a Halted one. `run_until` checks Halted, then the predicate; then it steps, ends with what the step ends with, or when the
verifier has stopped, and else goes on; so the reason it returns for is the one the state it leaves shows. That `stop`
tells the verifier of the halt is the model's reading (notes/assumptions/8.md); the bound on the steps, `unfinished`, and
that a run cut in two goes on where it stopped are its choice (11.md), and so is the refusal before any load, which R293
allows (5.md). -/
def Obligations.StopAndRunUntil : Prop :=
  ∀ (pred : State → Bool) (n m : Nat) (s : State),
    (s.run = .running →
      s.stop = { s with
        run := .halted .stopped, verifier := s.verifier.map fun w => w.engineHalted .stopped }) ∧
    (∀ r, s.run = .halted r → s.stop = s) ∧
    (s.loaded = false → runUntil pred n s = .refused .notLoaded) ∧
    (s.loaded = true →
      runUntil pred 0 s = .unfinished s ∧
      (∀ r, s.run = .halted r → runUntil pred (n + 1) s = .halted r s) ∧
      (s.run = .running → pred s = true → runUntil pred (n + 1) s = .predicateMet s) ∧
      (s.run = .running → pred s = false → runUntil pred (n + 1) s =
        match step s with
        | .fault f => .fault f
        | .refused r => .refused r
        | .next t =>
          match t.verifyDone? with
          | some v => .verifyDone v t
          | none => runUntil pred n t)) ∧
    (∀ t, runUntil pred n s = .predicateMet t → pred t = true ∧ t.run = .running) ∧
    (∀ r t, runUntil pred n s = .halted r t → t.run = .halted r) ∧
    (∀ v t, runUntil pred n s = .verifyDone v t →
      v ≠ .comparing ∧ ∃ w, t.verifier = some w ∧ w.status = v) ∧
    ∀ t, runUntil pred n s = .unfinished t → runUntil pred (n + m) s = runUntil pred m t

/-- R241, R242: `hex2` is two upper-case hexadecimal digits, `hex4` four, the most significant first; `pad` puts spaces
after a text up to the length asked for, and leaves a longer one as it is. The disassembly is the mnemonic and, for every
mode but Implicit, a space and the operand text of the mode, made of the instruction's bytes and the opcode address; it
is at most 11 characters long. -/
def Obligations.TraceTextFollowsTheModeTable : Prop :=
  (∀ v : Byte, (hex2 v).length = 2 ∧ (hex2 v)[0]? = hexDigits[v.toNat / 16]? ∧
    (hex2 v)[1]? = hexDigits[v.toNat % 16]?) ∧
  (∀ w : Word, (hex4 w).length = 4 ∧ ∀ k, k < 4 → (hex4 w)[k]? = hexDigits[w.toNat / 16 ^ (3 - k) % 16]?) ∧
  (∀ (text : Line) (width : Nat), (pad text width).length = max text.length width ∧
    (pad text width).take text.length = text ∧
    ∀ k, text.length ≤ k → k < width → (pad text width)[k]? = some ' ') ∧
  ∀ (i : Instr) (a0 : Word),
    disasm i a0 = (mnemonicName i.mnemonic).toList ++
      operandText i.form.mode ((encode i).getD 1 0x00) ((encode i).getD 2 0x00) a0 ∧
    (disasm i a0).length ≤ 11
end

