-- ==== Sys2Proof/Laws/Flags.lean ====
section
/-! SUPPORT. The laws of the status register: what each flag computation leaves in each bit of P. -/

namespace Sys2Proof.Machine

theorem StatusFlag.bit_inj {f g : StatusFlag} : f.bit = g.bit ↔ f = g := by
  cases f <;> cases g <;> decide

theorem mask_bit (n k : Nat) (hn : n < 8) : (1#8 <<< n).getLsbD k = decide (k = n) := by
  rw [BitVec.getLsbD_shiftLeft, BitVec.getLsbD_one]
  by_cases h : k = n
  · subst h; simp [hn]
  · by_cases h1 : k < n
    · simp [h1, h]
    · have : k - n ≠ 0 := by omega
      simp [this, h]

theorem StatusFlag.bit_lt (f : StatusFlag) : f.bit < 8 := by cases f <;> decide

/-- `setFlag` writes one bit and keeps every other (R27). -/
theorem getLsbD_setFlag (f : StatusFlag) (b : Bool) (p : Byte) (k : Nat) :
    (setFlag f b p).getLsbD k = if k = f.bit then b else p.getLsbD k := by
  have hb := f.bit_lt
  unfold setFlag
  by_cases hk : k = f.bit
  · subst hk
    cases b
    · simp only [Bool.false_eq_true, if_false, BitVec.getLsbD_and, BitVec.getLsbD_not, mask_bit _ _ hb]
      simp
    · simp only [if_true, BitVec.getLsbD_or, mask_bit _ _ hb]
      simp
  · cases b
    · simp only [Bool.false_eq_true, if_false, BitVec.getLsbD_and, BitVec.getLsbD_not, mask_bit _ _ hb, hk]
      by_cases h8 : k < 8
      · simp [h8]
      · simp [h8, BitVec.getLsbD_of_ge p k (by omega)]
    · simp only [if_true, BitVec.getLsbD_or, mask_bit _ _ hb, hk]
      simp

@[simp] theorem getFlag_setFlag (f g : StatusFlag) (b : Bool) (p : Byte) :
    getFlag f (setFlag g b p) = if f = g then b else getFlag f p := by
  simp [getFlag, getLsbD_setFlag, StatusFlag.bit_inj]

/-- No flag lies in bit 5 or bit 4, so `setFlag` keeps both (R28). -/
@[simp] theorem setFlag_bit5 (f : StatusFlag) (b : Bool) (p : Byte) : (setFlag f b p)[5] = p[5] := by
  have h := getLsbD_setFlag f b p 5
  cases f <;> simpa [StatusFlag.bit] using h

@[simp] theorem setFlag_bit4 (f : StatusFlag) (b : Bool) (p : Byte) : (setFlag f b p)[4] = p[4] := by
  have h := getLsbD_setFlag f b p 4
  cases f <;> simpa [StatusFlag.bit] using h

/-- `SetNZ` bit by bit (R133). -/
theorem getLsbD_setNZ (v p : Byte) (k : Nat) :
    (setNZ v p).getLsbD k = if k = 7 then v.getLsbD 7 else if k = 1 then v == 0 else p.getLsbD k := by
  simp only [setNZ, getLsbD_setFlag, BitVec.msb_eq_getLsbD_last]
  rfl

@[simp] theorem setNZ_bit5 (v p : Byte) : (setNZ v p)[5] = p[5] := by simp [setNZ]

@[simp] theorem setNZ_bit4 (v p : Byte) : (setNZ v p)[4] = p[4] := by simp [setNZ]

/-- The pulled status bit by bit (R28): bit 5 set, bit 4 clear, the others as pulled. -/
theorem getLsbD_pulledStatus (v : Byte) (k : Nat) :
    (pulledStatus v).getLsbD k = if k = 5 then true else if k = 4 then false else v.getLsbD k := by
  by_cases hk : k < 8
  · have h : k = 0 ∨ k = 1 ∨ k = 2 ∨ k = 3 ∨ k = 4 ∨ k = 5 ∨ k = 6 ∨ k = 7 := by omega
    rcases h with rfl | rfl | rfl | rfl | rfl | rfl | rfl | rfl <;> simp [pulledStatus]
  · have h5 : k ≠ 5 := by omega
    have h4 : k ≠ 4 := by omega
    simp [h5, h4, BitVec.getLsbD_of_ge _ k (by omega : 8 ≤ k)]

/-- The pushed status bit by bit (R28): bits 5 and 4 set, the others as they are. -/
theorem getLsbD_pushedStatus (p : Byte) (k : Nat) :
    (pushedStatus p).getLsbD k = if k = 5 ∨ k = 4 then true else p.getLsbD k := by
  by_cases hk : k < 8
  · have h : k = 0 ∨ k = 1 ∨ k = 2 ∨ k = 3 ∨ k = 4 ∨ k = 5 ∨ k = 6 ∨ k = 7 := by omega
    rcases h with rfl | rfl | rfl | rfl | rfl | rfl | rfl | rfl <;> simp [pushedStatus]
  · have h5 : k ≠ 5 := by omega
    have h4 : k ≠ 4 := by omega
    simp [h5, h4, BitVec.getLsbD_of_ge _ k (by omega : 8 ≤ k)]

/-- A pulled status always has the form R28 asks of P. -/
@[simp] theorem pulledStatus_bit5 (v : Byte) : (pulledStatus v)[5] = true := by simp [pulledStatus]

@[simp] theorem pulledStatus_bit4 (v : Byte) : (pulledStatus v)[4] = false := by simp [pulledStatus]

/-! ## `WritesFlags`, flag by flag -/

theorem writesFlags_nil (p : Byte) : WritesFlags p p [] := ⟨by simp, fun _ _ => rfl⟩

theorem WritesFlags.congr {p q : Byte} {l l' : List (StatusFlag × Bool)} (h : WritesFlags p q l)
    (e : ∀ x, x ∈ l' ↔ x ∈ l) : WritesFlags p q l' :=
  ⟨fun fb hm => h.1 fb ((e fb).mp hm), fun k hk => h.2 k fun fb hm => hk fb ((e fb).mpr hm)⟩

theorem setFlag_writes {p q : Byte} {l : List (StatusFlag × Bool)} (f : StatusFlag) (b : Bool)
    (h : WritesFlags p q l) (hl : ∀ fb ∈ l, fb.1 ≠ f) : WritesFlags p (setFlag f b q) ((f, b) :: l) := by
  refine ⟨?_, fun k hk => ?_⟩
  · intro fb hfb
    rcases List.mem_cons.mp hfb with rfl | hm
    · simp
    · rw [getFlag_setFlag, if_neg (hl fb hm)]; exact h.1 fb hm
  · rw [getLsbD_setFlag, if_neg (Ne.symm (hk (f, b) (by simp)))]
    exact h.2 k fun fb hm => hk fb (by simp [hm])

theorem setNZ_writes {p q : Byte} {l : List (StatusFlag × Bool)} (v : Byte) (h : WritesFlags p q l)
    (hl : ∀ fb ∈ l, fb.1 ≠ .n ∧ fb.1 ≠ .z) : WritesFlags p (setNZ v q) (nzOf v ++ l) := by
  have h1 := setFlag_writes .z (v == 0) h fun fb hm => (hl fb hm).2
  have h2 := setFlag_writes .n v.msb h1 (by
    intro fb hm
    rcases List.mem_cons.mp hm with rfl | hm
    · simp
    · exact (hl fb hm).1)
  refine WritesFlags.congr (q := setNZ v q) h2 ?_
  have ez : (v == 0) = decide (v.toNat = 0) := by
    rw [Bool.eq_iff_iff]; simp [← BitVec.toNat_inj]
  have en : v.msb = decide (128 ≤ v.toNat) := by rw [BitVec.msb_eq_decide]
  intro x
  simp only [nzOf, List.cons_append, List.nil_append, List.mem_cons, ez, en]
  tauto

/-- `SetNZ` writes N and Z (R133). -/
theorem setNZ_only (v p : Byte) : WritesFlags p (setNZ v p) (nzOf v) := by
  simpa using setNZ_writes v (writesFlags_nil p) (by simp)

/-- ADC and SBC write N, Z, V and C (R181). -/
theorem addFlags_writes (r : AluResult) (p : Byte) :
    WritesFlags p (addFlags r p) (nzOf r.value ++ [(.v, r.overflow), (.c, r.carry)]) :=
  setNZ_writes _ (setFlag_writes _ _ (setFlag_writes _ _ (writesFlags_nil p) (by simp)) (by simp)) (by simp)

/-- A compare writes N, Z and C (R186). -/
theorem compareFlags_writes (r m p : Byte) :
    WritesFlags p (compareFlags r m p) (nzOf (r - m) ++ [(StatusFlag.c, decide (m ≤ r))]) :=
  setNZ_writes _ (setFlag_writes _ _ (writesFlags_nil p) (by simp)) (by simp)

/-- BIT writes V, N and Z (R190). -/
theorem bitFlags_writes (a m p : Byte) :
    WritesFlags p (bitFlags a m p) [(.v, m.getLsbD 6), (.n, m.getLsbD 7), (.z, (a &&& m) == 0)] :=
  setFlag_writes _ _ (setFlag_writes _ _ (setFlag_writes _ _ (writesFlags_nil p) (by simp)) (by simp)) (by simp)

/-- A shift or a rotate writes N, Z and C (R200 to R203). -/
theorem shiftFlags_writes (r : ShiftResult) (p : Byte) :
    WritesFlags p (shiftFlags r p) (nzOf r.value ++ [(.c, r.carry)]) :=
  setNZ_writes _ (setFlag_writes _ _ (writesFlags_nil p) (by simp)) (by simp)

end Sys2Proof.Machine
end

