-- ==== Sys2Proof/Laws/State.lean ====
section
/-! SUPPORT. What each named update of the state leaves in each field, true by rfl: later proofs unfold no record
update. -/

namespace Sys2Proof.Machine

section memRead

variable (s : State) (a : Word)

@[simp] theorem State.memRead_a : (s.memRead a).2.a = s.a := rfl
@[simp] theorem State.memRead_x : (s.memRead a).2.x = s.x := rfl
@[simp] theorem State.memRead_y : (s.memRead a).2.y = s.y := rfl
@[simp] theorem State.memRead_sp : (s.memRead a).2.sp = s.sp := rfl
@[simp] theorem State.memRead_p : (s.memRead a).2.p = s.p := rfl
@[simp] theorem State.memRead_pc : (s.memRead a).2.pc = s.pc := rfl
@[simp] theorem State.memRead_mem : (s.memRead a).2.mem = s.mem := rfl
@[simp] theorem State.memRead_run : (s.memRead a).2.run = s.run := rfl
@[simp] theorem State.memRead_cycles : (s.memRead a).2.cycles = s.cycles := rfl
@[simp] theorem State.memRead_verifier : (s.memRead a).2.verifier = s.verifier := rfl
@[simp] theorem State.memRead_loaded : (s.memRead a).2.loaded = s.loaded := rfl
@[simp] theorem State.memRead_params : (s.memRead a).2.params = s.params := rfl
@[simp] theorem State.memRead_diags : (s.memRead a).2.diags = s.diags := rfl
@[simp] theorem State.memRead_ioReads : (s.memRead a).2.ioReads = (if s.atDevice a then s.ioReads + 1 else s.ioReads) := rfl
@[simp] theorem State.memRead_ioWrites : (s.memRead a).2.ioWrites = s.ioWrites := rfl

end memRead

section memWrite

variable (s : State) (a : Word) (v : Byte)

@[simp] theorem State.memWrite_a : (s.memWrite a v).a = s.a := rfl
@[simp] theorem State.memWrite_x : (s.memWrite a v).x = s.x := rfl
@[simp] theorem State.memWrite_y : (s.memWrite a v).y = s.y := rfl
@[simp] theorem State.memWrite_sp : (s.memWrite a v).sp = s.sp := rfl
@[simp] theorem State.memWrite_p : (s.memWrite a v).p = s.p := rfl
@[simp] theorem State.memWrite_pc : (s.memWrite a v).pc = s.pc := rfl
@[simp] theorem State.memWrite_mem : (s.memWrite a v).mem = (if s.atDevice a then s.mem else Memory.write s.mem (canon a).toNat v) := rfl
@[simp] theorem State.memWrite_run : (s.memWrite a v).run = s.run := rfl
@[simp] theorem State.memWrite_cycles : (s.memWrite a v).cycles = s.cycles := rfl
@[simp] theorem State.memWrite_verifier : (s.memWrite a v).verifier = s.verifier := rfl
@[simp] theorem State.memWrite_loaded : (s.memWrite a v).loaded = s.loaded := rfl
@[simp] theorem State.memWrite_params : (s.memWrite a v).params = s.params := rfl
@[simp] theorem State.memWrite_diags : (s.memWrite a v).diags = s.diags := rfl
@[simp] theorem State.memWrite_ioReads : (s.memWrite a v).ioReads = s.ioReads := rfl
@[simp] theorem State.memWrite_ioWrites : (s.memWrite a v).ioWrites = (if s.atDevice a then s.ioWrites ++ [⟨canon a, v⟩] else s.ioWrites) := rfl

end memWrite

section emit

variable (s : State) (k : StackKind) (a0 : Word)

@[simp] theorem State.emit_a : (s.emit k a0).a = s.a := rfl
@[simp] theorem State.emit_x : (s.emit k a0).x = s.x := rfl
@[simp] theorem State.emit_y : (s.emit k a0).y = s.y := rfl
@[simp] theorem State.emit_sp : (s.emit k a0).sp = s.sp := rfl
@[simp] theorem State.emit_p : (s.emit k a0).p = s.p := rfl
@[simp] theorem State.emit_pc : (s.emit k a0).pc = s.pc := rfl
@[simp] theorem State.emit_mem : (s.emit k a0).mem = s.mem := rfl
@[simp] theorem State.emit_run : (s.emit k a0).run = s.run := rfl
@[simp] theorem State.emit_cycles : (s.emit k a0).cycles = s.cycles := rfl
@[simp] theorem State.emit_verifier : (s.emit k a0).verifier = s.verifier := rfl
@[simp] theorem State.emit_loaded : (s.emit k a0).loaded = s.loaded := rfl
@[simp] theorem State.emit_params : (s.emit k a0).params = s.params := rfl
@[simp] theorem State.emit_diags : (s.emit k a0).diags = (if k.wraps s.sp then s.diags ++ [⟨k, a0⟩] else s.diags) := rfl
@[simp] theorem State.emit_ioReads : (s.emit k a0).ioReads = s.ioReads := rfl
@[simp] theorem State.emit_ioWrites : (s.emit k a0).ioWrites = s.ioWrites := rfl

end emit

section abandon

variable (s : State) (k : StackKind) (a0 : Word)

@[simp] theorem State.abandon_a : (s.abandon k a0).a = s.a := rfl
@[simp] theorem State.abandon_x : (s.abandon k a0).x = s.x := rfl
@[simp] theorem State.abandon_y : (s.abandon k a0).y = s.y := rfl
@[simp] theorem State.abandon_sp : (s.abandon k a0).sp = s.sp := rfl
@[simp] theorem State.abandon_p : (s.abandon k a0).p = s.p := rfl
@[simp] theorem State.abandon_pc : (s.abandon k a0).pc = (a0) := rfl
@[simp] theorem State.abandon_mem : (s.abandon k a0).mem = s.mem := rfl
@[simp] theorem State.abandon_run : (s.abandon k a0).run = (.halted (.stackBoundary k a0)) := rfl
@[simp] theorem State.abandon_cycles : (s.abandon k a0).cycles = s.cycles := rfl
@[simp] theorem State.abandon_verifier : (s.abandon k a0).verifier = s.verifier := rfl
@[simp] theorem State.abandon_loaded : (s.abandon k a0).loaded = s.loaded := rfl
@[simp] theorem State.abandon_params : (s.abandon k a0).params = s.params := rfl
@[simp] theorem State.abandon_diags : (s.abandon k a0).diags = s.diags := rfl
@[simp] theorem State.abandon_ioReads : (s.abandon k a0).ioReads = s.ioReads := rfl
@[simp] theorem State.abandon_ioWrites : (s.abandon k a0).ioWrites = s.ioWrites := rfl

end abandon

section haltUnmapped

variable (s : State) (op : Byte) (a0 : Word)

@[simp] theorem State.haltUnmapped_a : (s.haltUnmapped op a0).a = s.a := rfl
@[simp] theorem State.haltUnmapped_x : (s.haltUnmapped op a0).x = s.x := rfl
@[simp] theorem State.haltUnmapped_y : (s.haltUnmapped op a0).y = s.y := rfl
@[simp] theorem State.haltUnmapped_sp : (s.haltUnmapped op a0).sp = s.sp := rfl
@[simp] theorem State.haltUnmapped_p : (s.haltUnmapped op a0).p = s.p := rfl
@[simp] theorem State.haltUnmapped_pc : (s.haltUnmapped op a0).pc = s.pc := rfl
@[simp] theorem State.haltUnmapped_mem : (s.haltUnmapped op a0).mem = s.mem := rfl
@[simp] theorem State.haltUnmapped_run : (s.haltUnmapped op a0).run = (.halted (.unmappedOpcode op a0)) := rfl
@[simp] theorem State.haltUnmapped_cycles : (s.haltUnmapped op a0).cycles = s.cycles := rfl
@[simp] theorem State.haltUnmapped_verifier : (s.haltUnmapped op a0).verifier = s.verifier := rfl
@[simp] theorem State.haltUnmapped_loaded : (s.haltUnmapped op a0).loaded = s.loaded := rfl
@[simp] theorem State.haltUnmapped_params : (s.haltUnmapped op a0).params = s.params := rfl
@[simp] theorem State.haltUnmapped_diags : (s.haltUnmapped op a0).diags = s.diags := rfl
@[simp] theorem State.haltUnmapped_ioReads : (s.haltUnmapped op a0).ioReads = s.ioReads := rfl
@[simp] theorem State.haltUnmapped_ioWrites : (s.haltUnmapped op a0).ioWrites = s.ioWrites := rfl

end haltUnmapped

section fetchByte

variable (s : State)

@[simp] theorem State.fetchByte_a : s.fetchByte.2.a = s.a := rfl
@[simp] theorem State.fetchByte_x : s.fetchByte.2.x = s.x := rfl
@[simp] theorem State.fetchByte_y : s.fetchByte.2.y = s.y := rfl
@[simp] theorem State.fetchByte_sp : s.fetchByte.2.sp = s.sp := rfl
@[simp] theorem State.fetchByte_p : s.fetchByte.2.p = s.p := rfl
@[simp] theorem State.fetchByte_pc : s.fetchByte.2.pc = (s.pc + 1) := rfl
@[simp] theorem State.fetchByte_mem : s.fetchByte.2.mem = s.mem := rfl
@[simp] theorem State.fetchByte_run : s.fetchByte.2.run = s.run := rfl
@[simp] theorem State.fetchByte_cycles : s.fetchByte.2.cycles = s.cycles := rfl
@[simp] theorem State.fetchByte_verifier : s.fetchByte.2.verifier = s.verifier := rfl
@[simp] theorem State.fetchByte_loaded : s.fetchByte.2.loaded = s.loaded := rfl
@[simp] theorem State.fetchByte_params : s.fetchByte.2.params = s.params := rfl
@[simp] theorem State.fetchByte_diags : s.fetchByte.2.diags = s.diags := rfl
@[simp] theorem State.fetchByte_ioReads : s.fetchByte.2.ioReads = (if s.atDevice s.pc then s.ioReads + 1 else s.ioReads) := rfl
@[simp] theorem State.fetchByte_ioWrites : s.fetchByte.2.ioWrites = s.ioWrites := rfl

end fetchByte

section feedRecord

variable (s : State) (r : TraceRecord)

@[simp] theorem State.feedRecord_a : (s.feedRecord r).a = s.a := rfl
@[simp] theorem State.feedRecord_x : (s.feedRecord r).x = s.x := rfl
@[simp] theorem State.feedRecord_y : (s.feedRecord r).y = s.y := rfl
@[simp] theorem State.feedRecord_sp : (s.feedRecord r).sp = s.sp := rfl
@[simp] theorem State.feedRecord_p : (s.feedRecord r).p = s.p := rfl
@[simp] theorem State.feedRecord_pc : (s.feedRecord r).pc = s.pc := rfl
@[simp] theorem State.feedRecord_mem : (s.feedRecord r).mem = s.mem := rfl
@[simp] theorem State.feedRecord_run : (s.feedRecord r).run = s.run := rfl
@[simp] theorem State.feedRecord_cycles : (s.feedRecord r).cycles = s.cycles := rfl
@[simp] theorem State.feedRecord_verifier : (s.feedRecord r).verifier = (s.verifier.map fun v => v.step s.params.traceCmpCols (formatLine r)) := rfl
@[simp] theorem State.feedRecord_loaded : (s.feedRecord r).loaded = s.loaded := rfl
@[simp] theorem State.feedRecord_params : (s.feedRecord r).params = s.params := rfl
@[simp] theorem State.feedRecord_diags : (s.feedRecord r).diags = s.diags := rfl
@[simp] theorem State.feedRecord_ioReads : (s.feedRecord r).ioReads = s.ioReads := rfl
@[simp] theorem State.feedRecord_ioWrites : (s.feedRecord r).ioWrites = s.ioWrites := rfl

end feedRecord

section feedHalt

variable (s : State) (r : HaltReason)

@[simp] theorem State.feedHalt_a : (s.feedHalt r).a = s.a := rfl
@[simp] theorem State.feedHalt_x : (s.feedHalt r).x = s.x := rfl
@[simp] theorem State.feedHalt_y : (s.feedHalt r).y = s.y := rfl
@[simp] theorem State.feedHalt_sp : (s.feedHalt r).sp = s.sp := rfl
@[simp] theorem State.feedHalt_p : (s.feedHalt r).p = s.p := rfl
@[simp] theorem State.feedHalt_pc : (s.feedHalt r).pc = s.pc := rfl
@[simp] theorem State.feedHalt_mem : (s.feedHalt r).mem = s.mem := rfl
@[simp] theorem State.feedHalt_run : (s.feedHalt r).run = s.run := rfl
@[simp] theorem State.feedHalt_cycles : (s.feedHalt r).cycles = s.cycles := rfl
@[simp] theorem State.feedHalt_verifier : (s.feedHalt r).verifier = (s.verifier.map fun v => v.engineHalted r) := rfl
@[simp] theorem State.feedHalt_loaded : (s.feedHalt r).loaded = s.loaded := rfl
@[simp] theorem State.feedHalt_params : (s.feedHalt r).params = s.params := rfl
@[simp] theorem State.feedHalt_diags : (s.feedHalt r).diags = s.diags := rfl
@[simp] theorem State.feedHalt_ioReads : (s.feedHalt r).ioReads = s.ioReads := rfl
@[simp] theorem State.feedHalt_ioWrites : (s.feedHalt r).ioWrites = s.ioWrites := rfl

end feedHalt

section placeInstr

variable (s : State) (bs : List Byte)

@[simp] theorem State.placeInstr_a : (s.placeInstr bs).a = s.a := rfl
@[simp] theorem State.placeInstr_x : (s.placeInstr bs).x = s.x := rfl
@[simp] theorem State.placeInstr_y : (s.placeInstr bs).y = s.y := rfl
@[simp] theorem State.placeInstr_sp : (s.placeInstr bs).sp = s.sp := rfl
@[simp] theorem State.placeInstr_p : (s.placeInstr bs).p = s.p := rfl
@[simp] theorem State.placeInstr_pc : (s.placeInstr bs).pc = s.pc := rfl
@[simp] theorem State.placeInstr_mem : (s.placeInstr bs).mem = (Memory.copy s.mem s.pc bs) := rfl
@[simp] theorem State.placeInstr_run : (s.placeInstr bs).run = (.running) := rfl
@[simp] theorem State.placeInstr_cycles : (s.placeInstr bs).cycles = s.cycles := rfl
@[simp] theorem State.placeInstr_verifier : (s.placeInstr bs).verifier = s.verifier := rfl
@[simp] theorem State.placeInstr_loaded : (s.placeInstr bs).loaded = (true) := rfl
@[simp] theorem State.placeInstr_params : (s.placeInstr bs).params = s.params := rfl
@[simp] theorem State.placeInstr_diags : (s.placeInstr bs).diags = s.diags := rfl
@[simp] theorem State.placeInstr_ioReads : (s.placeInstr bs).ioReads = s.ioReads := rfl
@[simp] theorem State.placeInstr_ioWrites : (s.placeInstr bs).ioWrites = s.ioWrites := rfl

end placeInstr

/-- The byte a read gives (R53, R55). -/
theorem State.memRead_fst (s : State) (a : Word) :
    (s.memRead a).1 = if s.atDevice a then Config.ioDraw s.ioReads else s.peek a := rfl

/-- A read changes the count of draws and nothing else. -/
theorem State.memRead_snd (s : State) (a : Word) :
    (s.memRead a).2 = { s with ioReads := if s.atDevice a then s.ioReads + 1 else s.ioReads } := rfl

end Sys2Proof.Machine
end

