-- ==== Sys2Proof/Laws/Memory.lean ====
section
/-! SUPPORT. The laws of the memory: read after write, the canonical form, the canonical addresses. -/

namespace Sys2Proof.Machine

theorem Memory.read_erase_same (m : Memory) (k : Nat) : Memory.read (Memory.erase m k) k = Memory.unlisted := by
  induction m with
  | nil => rfl
  | cons c t ih =>
    obtain ⟨b, v⟩ := c
    by_cases h : b = k
    · simpa [Memory.erase, h] using ih
    · simpa [Memory.erase, Memory.read, h] using ih

theorem Memory.read_erase_ne (m : Memory) {k j : Nat} (h : j ≠ k) :
    Memory.read (Memory.erase m k) j = Memory.read m j := by
  induction m with
  | nil => rfl
  | cons c t ih =>
    obtain ⟨b, v⟩ := c
    by_cases hb : b = k
    · have : b ≠ j := by omega
      simpa [Memory.erase, Memory.read, hb, this, h.symm] using ih
    · by_cases hj : b = j
      · simp [Memory.erase, Memory.read, hj, h]
      · simpa [Memory.erase, Memory.read, hb, hj] using ih

theorem Memory.read_insert_ne (m : Memory) {k j : Nat} (v : Byte) (h : j ≠ k) :
    Memory.read (Memory.insert m k v) j = Memory.read m j := by
  induction m with
  | nil => simp [Memory.insert, Memory.read, h.symm]
  | cons c t ih =>
    obtain ⟨b, w⟩ := c
    by_cases hb : k < b
    · simp [Memory.insert, Memory.read, hb, h.symm]
    · by_cases hj : b = j
      · subst hj; simp [Memory.insert, Memory.read, hb]
      · simpa [Memory.insert, Memory.read, hb, hj] using ih

/-- Reading a cell just inserted, where the list held no entry for it. -/
theorem Memory.read_insert_same (m : Memory) (k : Nat) (v : Byte) (h : ∀ c ∈ m, c.1 ≠ k) :
    Memory.read (Memory.insert m k v) k = v := by
  induction m with
  | nil => simp [Memory.insert, Memory.read]
  | cons c t ih =>
    obtain ⟨b, w⟩ := c
    by_cases hb : k < b
    · simp [Memory.insert, Memory.read, hb]
    · have hne : b ≠ k := h (b, w) (by simp)
      simpa [Memory.insert, Memory.read, hb, hne] using ih fun c hc => h c (by simp [hc])

theorem Memory.erase_ne (m : Memory) (k : Nat) : ∀ c ∈ Memory.erase m k, c.1 ≠ k := by
  intro c hc
  simpa using (List.mem_filter.mp hc).2

/-- A cell reads as the byte last written to it, whatever the list. -/
@[simp] theorem Memory.read_write_same (m : Memory) (k : Nat) (v : Byte) :
    Memory.read (Memory.write m k v) k = v := by
  unfold Memory.write
  split
  · rename_i h; rw [Memory.read_erase_same, h]
  · exact Memory.read_insert_same _ _ _ (Memory.erase_ne m k)

/-- A write leaves every other cell alone, whatever the list. -/
theorem Memory.read_write_ne (m : Memory) {k j : Nat} (v : Byte) (h : j ≠ k) :
    Memory.read (Memory.write m k v) j = Memory.read m j := by
  unfold Memory.write
  split
  · exact Memory.read_erase_ne m h
  · rw [Memory.read_insert_ne _ _ h, Memory.read_erase_ne m h]

theorem Memory.wf_nil : Memory.wf [] := by decide

theorem Memory.wf_erase {m : Memory} (h : Memory.wf m) (k : Nat) : Memory.wf (Memory.erase m k) :=
  ⟨h.1.filter _, fun c hc => h.2 c (List.mem_filter.mp hc).1⟩

theorem Memory.mem_insert {m : Memory} {k : Nat} {v : Byte} {c : Host.Cell} (h : c ∈ Memory.insert m k v) :
    c = (k, v) ∨ c ∈ m := by
  induction m with
  | nil => simpa [Memory.insert] using h
  | cons d t ih =>
    obtain ⟨b, w⟩ := d
    by_cases hb : k < b
    · simpa [Memory.insert, hb] using h
    · simp only [Memory.insert, hb, if_false, List.mem_cons] at h
      rcases h with h | h
      · simp [h]
      · rcases ih h with h | h <;> simp [h]

theorem Memory.rising_insert {m : Memory} {k : Nat} {v : Byte} (hm : m.Pairwise fun c d => c.1 < d.1)
    (hk : ∀ c ∈ m, c.1 ≠ k) : (Memory.insert m k v).Pairwise fun c d => c.1 < d.1 := by
  induction m with
  | nil => simp [Memory.insert]
  | cons d t ih =>
    obtain ⟨b, w⟩ := d
    have ht := List.pairwise_cons.mp hm
    by_cases hb : k < b
    · simp only [Memory.insert, hb, if_true]
      refine List.pairwise_cons.mpr ⟨fun c hc => ?_, hm⟩
      rcases List.mem_cons.mp hc with rfl | hc
      · exact hb
      · exact Nat.lt_trans hb (ht.1 c hc)
    · simp only [Memory.insert, hb, if_false]
      refine List.pairwise_cons.mpr ⟨fun c hc => ?_, ih ht.2 fun c hc => hk c (by simp [hc])⟩
      rcases Memory.mem_insert hc with rfl | hc
      · have := hk (b, w) (by simp)
        simp only at this ⊢
        omega
      · exact ht.1 c hc

/-- Every write of a canonical cell keeps the canonical form. -/
theorem Memory.wf_write {m : Memory} (h : Memory.wf m) {k : Nat} (hk : isCanonical k = true) (v : Byte) :
    Memory.wf (Memory.write m k v) := by
  have he := Memory.wf_erase h k
  unfold Memory.write
  split
  · exact he
  · rename_i hv
    refine ⟨Memory.rising_insert he.1 (Memory.erase_ne m k), fun c hc => ?_⟩
    rcases Memory.mem_insert hc with rfl | hc
    · exact ⟨hk, hv⟩
    · exact he.2 c hc

theorem canon_toNat (a : Word) :
    (canon a).toNat =
      if a.toNat < 0x2000 then a.toNat % 0x800 else if a.toNat < 0x4000 then 0x2000 + a.toNat % 8 else a.toNat := by
  have hm (n : Nat) (k : Nat) : n &&& (2 ^ k - 1) = n % 2 ^ k := Nat.and_two_pow_sub_one_eq_mod n k
  unfold canon
  by_cases h1 : a ≤ 0x1FFF#16
  · have : a.toNat < 0x2000 := by have := BitVec.le_def.mp h1; simp at this; omega
    simpa [h1, this] using hm a.toNat 11
  · have : ¬ a.toNat < 0x2000 := by
      intro h; apply h1; simp [BitVec.le_def]; omega
    by_cases h2 : a ≤ 0x3FFF#16
    · have h4 : a.toNat < 0x4000 := by have := BitVec.le_def.mp h2; simp at this; omega
      have h8 : (0x2000#16 ||| (a &&& 0x0007#16)).toNat = 0x2000 + a.toNat % 8 := by
        have := hm a.toNat 3
        simp only [BitVec.toNat_or, BitVec.toNat_and, BitVec.toNat_ofNat]
        norm_num at this ⊢
        rw [this]
        have h := Nat.two_pow_add_eq_or_of_lt (i := 13) (b := a.toNat % 8) (by omega) 1
        simpa using h.symm
      simp only [h1, h2, this, h4, if_false, if_true]
      exact h8
    · have h4 : ¬ a.toNat < 0x4000 := by
        intro h; apply h2; simp [BitVec.le_def]; omega
      simp [h1, h2, this, h4]

/-- A canonical address is one of the numbers `isCanonical` lists. -/
theorem isCanonical_canon (a : Word) : isCanonical (canon a).toNat = true := by
  have ha := a.isLt
  rw [canon_toNat]
  unfold isCanonical
  split
  · simp; omega
  · split <;> simp <;> omega

/-- The cell numbers of two addresses are equal exactly when their canonical addresses are. -/
theorem canon_toNat_inj {a b : Word} : (canon a).toNat = (canon b).toNat ↔ canon a = canon b :=
  BitVec.toNat_inj

theorem Memory.wf_copy {m : Memory} (h : Memory.wf m) (a : Word) (bs : List Byte) : Memory.wf (Memory.copy m a bs) := by
  induction bs generalizing m a with
  | nil => exact h
  | cons b bs ih => exact ih (Memory.wf_write h (isCanonical_canon a) b) (a + 1)

/-- What a copy leaves: the last byte stored to a cell, and the old byte of a cell it does not reach (R292). -/
theorem Memory.read_copy (bs : List Byte) : ∀ (m : Memory) (a : Word) (b : Nat),
    (∀ (k : Nat) (h : k < bs.length),
      (∀ j, k < j → j < bs.length → canon (a + BitVec.ofNat 16 j) ≠ canon (a + BitVec.ofNat 16 k)) →
      Memory.read (Memory.copy m a bs) (canon (a + BitVec.ofNat 16 k)).toNat = bs[k]) ∧
    ((∀ k, k < bs.length → (canon (a + BitVec.ofNat 16 k)).toNat ≠ b) →
      Memory.read (Memory.copy m a bs) b = Memory.read m b) := by
  induction bs with
  | nil => intro m a b; simp [Memory.copy]
  | cons c t ih =>
    intro m a b
    have e : ∀ k, a + 1 + BitVec.ofNat 16 k = a + BitVec.ofNat 16 (k + 1) := fun k => by
      rw [BitVec.add_assoc, show (1 : Word) = BitVec.ofNat 16 1 from rfl, ← BitVec.ofNat_add, Nat.add_comm 1 k]
    constructor
    · intro k hk hj
      cases k with
      | zero =>
        show Memory.read (Memory.copy (Memory.write m (canon a).toNat c) (a + 1) t) _ = c
        rw [(ih _ _ _).2]
        · simp
        · intro k hk' he
          rw [e] at he
          exact hj (k + 1) (by omega) (by simpa using hk') (canon_toNat_inj.mp he)
      | succ k =>
        show Memory.read (Memory.copy (Memory.write m (canon a).toNat c) (a + 1) t) _ = t[k]'(by simpa using hk)
        have := (ih (Memory.write m (canon a).toNat c) (a + 1) b).1 k (by simpa using hk) ?_
        · rw [e] at this; exact this
        · intro j hj1 hj2
          rw [e, e]
          exact hj (j + 1) (by omega) (by simpa using hj2)
    · intro h
      show Memory.read (Memory.copy (Memory.write m (canon a).toNat c) (a + 1) t) _ = _
      rw [(ih _ _ _).2]
      · have := h 0 (by simp)
        simp at this
        exact Memory.read_write_ne _ _ (Ne.symm this)
      · intro k hk
        rw [e]; exact h (k + 1) (by simpa using hk)

/-- A write through the memory contract keeps the canonical form. -/
theorem State.memWrite_wf {s : State} (h : Memory.wf s.mem) (a : Word) (v : Byte) :
    Memory.wf (s.memWrite a v).mem := by
  rw [State.memWrite_mem]
  split
  · exact h
  · exact Memory.wf_write h (isCanonical_canon a) v

/-- Under `IO_MODEL = ram` no address is a device. -/
@[simp] theorem State.atDevice_ram {s : State} (h : s.params.ioModel = .ram) (a : Word) : s.atDevice a = false := by
  simp [State.atDevice, h]

/-- Under `IO_MODEL = ram` a read is the byte of the cell and changes nothing (R53). -/
theorem State.memRead_ram {s : State} (h : s.params.ioModel = .ram) (a : Word) : s.memRead a = (s.peek a, s) := by
  simp [State.memRead, State.atDevice_ram h]

/-- What a cell reads as after a write (R54, R55). -/
theorem State.peek_memWrite (s : State) (a b : Word) (v : Byte) :
    (s.memWrite a v).peek b = if s.atDevice a = false ∧ canon b = canon a then v else s.peek b := by
  unfold State.peek
  rw [State.memWrite_mem]
  by_cases hd : s.atDevice a
  · simp [hd]
  · by_cases h : canon b = canon a
    · simp [hd, h]
    · have : (canon b).toNat ≠ (canon a).toNat := fun e => h (canon_toNat_inj.mp e)
      simp [hd, h, Memory.read_write_ne _ _ this]

/-- Two states with the same memory and write events store alike: what a write stores, in the terms of claims. -/
theorem stores_of_memWrite {s t : State} {ea : Word} {v : Byte} (h1 : t.mem = (s.memWrite ea v).mem)
    (h2 : t.ioWrites = (s.memWrite ea v).ioWrites) : Stores s t ea v := by
  have hp : ∀ b, t.peek b = (s.memWrite ea v).peek b := fun b => by unfold State.peek; rw [h1]
  refine ⟨fun b hb => ?_, fun hd b hb => ?_, fun hd b => ?_, ?_⟩
  · rw [hp, State.peek_memWrite]; simp [hb]
  · rw [hp, State.peek_memWrite]; simp [hb, hd]
  · rw [hp, State.peek_memWrite]; simp [hd]
  · rw [h2]; rfl

end Sys2Proof.Machine
end

