-- ==== Sys2Proof/Laws/Ops.lean ====
section
/-! SUPPORT. What the shared operations can do, said once: the reads change only the count of draws, a push and a pop
that raise nothing leave the state written here, and a handler that uses the stack ends in one of two ways. -/

namespace Sys2Proof.Machine

/-- Two reads change the count of draws and nothing else. -/
theorem State.readPair_snd (s : State) (lo hi : Word) :
    (s.readPair lo hi).2 = { s with ioReads := (s.readPair lo hi).2.ioReads } := rfl

/-- Under `IO_MODEL = ram` two reads give the two cells and change nothing (R58). -/
theorem State.readPair_ram {s : State} (h : s.params.ioModel = .ram) (lo hi : Word) :
    s.readPair lo hi = (joinBytes (s.peek lo) (s.peek hi), s) := by
  simp [State.readPair, State.memRead_ram h]

theorem State.readZp16_snd (s : State) (p : Byte) :
    (s.readZp16 p).2 = { s with ioReads := (s.readZp16 p).2.ioReads } := rfl

theorem State.read16PageWrap_snd (s : State) (a : Word) :
    (s.read16PageWrap a).2 = { s with ioReads := (s.read16PageWrap a).2.ioReads } := by
  unfold State.read16PageWrap; split <;> rfl

/-- The address of the high byte of a page-wrapping pointer (R60). -/
theorem pageWrap_eq (a : Word) :
    (a &&& 0xFF00#16) ||| ((a + 1) &&& 0x00FF#16) =
      BitVec.ofNat 16 (a.toNat / 256 * 256 + (a.toNat + 1) % 256) := by
  have h1 : a &&& 0xFF00#16 = BitVec.ofNat 16 (a.toNat / 256 * 256) := by
    have e : a &&& 0xFF00#16 = a - (a &&& 0x00FF#16) := by
      have : a = (a &&& 0xFF00#16) + (a &&& 0x00FF#16) := by
        rw [BitVec.add_eq_or_of_and_eq_zero]
        · rw [← BitVec.and_or_distrib_left]; exact (BitVec.and_allOnes).symm
        · rw [BitVec.and_assoc, ← BitVec.and_assoc _ a, BitVec.and_comm _ a]; simp [BitVec.and_assoc]
      bv_omega
    have h := Nat.and_two_pow_sub_one_eq_mod a.toNat 8
    norm_num at h
    apply BitVec.eq_of_toNat_eq
    rw [e]
    have ha := a.isLt
    have : (a &&& 0x00FF#16).toNat = a.toNat % 256 := by simpa [BitVec.toNat_and] using h
    simp only [BitVec.toNat_sub, this, BitVec.toNat_ofNat]
    omega
  have h2 : (a + 1) &&& 0x00FF#16 = BitVec.ofNat 16 ((a.toNat + 1) % 256) := by
    have h := Nat.and_two_pow_sub_one_eq_mod (a + 1).toNat 8
    norm_num at h
    apply BitVec.eq_of_toNat_eq
    rw [BitVec.toNat_and]
    show (a + 1).toNat &&& 255 = _
    rw [show (a + 1).toNat &&& 255 = _ from h]
    simp
    omega
  rw [h1, h2, ← BitVec.add_eq_or_of_and_eq_zero]
  · rw [← BitVec.ofNat_add]
  · rw [← h1, ← h2, BitVec.and_assoc, BitVec.and_comm (a + 1), ← BitVec.and_assoc _ _ (a + 1)]; simp

theorem stackAddr_toNat (sp : Byte) : (stackAddr sp).toNat = 0x100 + sp.toNat := by
  have hs := sp.isLt
  unfold stackAddr zext16
  have h := Nat.two_pow_add_eq_or_of_lt (i := 8) (b := sp.toNat) (by omega) 1
  simp [BitVec.toNat_or, BitVec.toNat_setWidth, Nat.mod_eq_of_lt (by omega : sp.toNat < 65536)]
  simpa using h.symm

/-- A stack address is its own canonical address (R70). -/
@[simp] theorem canon_stackAddr (sp : Byte) : canon (stackAddr sp) = stackAddr sp := by
  have hs := sp.isLt
  apply BitVec.eq_of_toNat_eq
  rw [canon_toNat, stackAddr_toNat]
  split <;> omega

/-- No stack address is a device (R70). -/
@[simp] theorem State.atDevice_stackAddr (s : State) (sp : Byte) : s.atDevice (stackAddr sp) = false := by
  have hs := sp.isLt
  have h := stackAddr_toNat sp
  have h1 : ¬ (0x2000#16 ≤ stackAddr sp) := by rw [BitVec.le_def]; simp; omega
  have h2 : ¬ (0x4000#16 ≤ stackAddr sp) := by rw [BitVec.le_def]; simp; omega
  simp [State.atDevice, isDeviceCell, h1, h2]

theorem stackAddr_inj {p q : Byte} : stackAddr p = stackAddr q ↔ p = q := by
  refine ⟨fun h => ?_, fun h => h ▸ rfl⟩
  have := congrArg BitVec.toNat h
  rw [stackAddr_toNat, stackAddr_toNat] at this
  exact BitVec.eq_of_toNat_eq (by omega)

/-- A push that does not fault (R71). -/
theorem State.push_ok {s : State} (h : s.stackFaults .push = false) (a0 : Word) (v : Byte) :
    s.push a0 v = .ok { s with
      mem := Memory.write s.mem (stackAddr s.sp).toNat v
      sp := s.sp - 1
      diags := if s.sp = 0 then s.diags ++ [⟨.push, a0⟩] else s.diags } := by
  simp [State.push, h, State.memWrite, State.emit, StackKind.wraps]

/-- A push that faults raises StackBoundary and does nothing (R75). -/
theorem State.push_error {s : State} (h : s.stackFaults .push = true) (a0 : Word) (v : Byte) :
    s.push a0 v = .error .push := by simp [State.push, h]

/-- A pop that does not fault (R72). -/
theorem State.pop_ok {s : State} (h : s.stackFaults .pop = false) (a0 : Word) :
    s.pop a0 = .ok (s.peek (stackAddr (s.sp + 1)), { s with
      sp := s.sp + 1
      diags := if s.sp = 0xFF then s.diags ++ [⟨.pop, a0⟩] else s.diags }) := by
  have hd : ({ s.emit .pop a0 with sp := s.sp + 1 } : State).atDevice (stackAddr (s.sp + 1)) = false :=
    State.atDevice_stackAddr _ _
  simp only [State.pop, h, Bool.false_eq_true, if_false, State.memRead, hd]
  simp [State.emit, StackKind.wraps, State.peek]

/-- A pop that faults raises StackBoundary and does nothing (R75). -/
theorem State.pop_error {s : State} (h : s.stackFaults .pop = true) (a0 : Word) : s.pop a0 = .error .pop := by
  simp [State.pop, h]

/-- Under `STACK_POLICY = wrap` no stack access faults (R73). -/
theorem State.stackFaults_wrap {s : State} (h : s.params.stackPolicy = .wrap) (k : StackKind) :
    s.stackFaults k = false := by simp [State.stackFaults, h]

/-- Away from the boundary no push faults. -/
theorem State.stackFaults_push {s : State} (h : s.sp ≠ 0) : s.stackFaults .push = false := by
  simpa [State.stackFaults, StackKind.wraps] using fun _ => h

/-- Away from the boundary no pop faults. -/
theorem State.stackFaults_pop {s : State} (h : s.sp ≠ 0xFF) : s.stackFaults .pop = false := by
  simpa [State.stackFaults, StackKind.wraps] using fun _ => h

/-- The end of a handler that uses the stack is always a next state: its own, or the abandoned one (R75). -/
theorem State.settle_cases (s : State) (a0 : Word) (r : Except StackKind State) :
    (∃ t, r = .ok t ∧ s.settle a0 r = .next t) ∨ (∃ k, r = .error k ∧ s.settle a0 r = .next (s.abandon k a0)) := by
  cases r with
  | ok t => exact .inl ⟨t, rfl, rfl⟩
  | error k => exact .inr ⟨k, rfl, rfl⟩

end Sys2Proof.Machine
end

