-- ==== Sys2Proof/Laws/Operands.lean ====
section
/-! SUPPORT. What the resolver and the operand helpers can do: they read, so they change only the count of draws, and
under `IO_MODEL = ram` nothing at all. -/

namespace Sys2Proof.Machine

theorem effAddr_snd (m : MemForm) (s : State) : (effAddr m s).2 = { s with ioReads := (effAddr m s).2.ioReads } := by
  cases m <;> rfl

theorem effAddr_ram (m : MemForm) {s : State} (h : s.params.ioModel = .ram) : (effAddr m s).2 = s := by
  cases m <;> simp [effAddr, State.readZp16, State.readPair_ram h]

theorem indirectTarget_snd (ptr : Word) (s : State) :
    (indirectTarget ptr s).2 = { s with ioReads := (indirectTarget ptr s).2.ioReads } :=
  s.read16PageWrap_snd ptr

theorem indirectTarget_ram (ptr : Word) {s : State} (h : s.params.ioModel = .ram) : (indirectTarget ptr s).2 = s := by
  unfold indirectTarget State.read16PageWrap State.read16
  split <;> simp [State.readPair_ram h]

theorem readSource_snd (src : Source) (s : State) :
    (readSource src s).2 = { s with ioReads := (readSource src s).2.ioReads } := by
  cases src with
  | imm v => rfl
  | mem m =>
    simp only [readSource, State.memRead_snd]
    rw [effAddr_snd m s]

theorem readSource_ram (src : Source) {s : State} (h : s.params.ioModel = .ram) : (readSource src s).2 = s := by
  cases src with
  | imm v => rfl
  | mem m =>
    have h1 := effAddr_ram m h
    simp [readSource, h1, State.memRead_ram h]

theorem resolvePlace_snd (pl : Place) (s : State) :
    (resolvePlace pl s).2 = { s with ioReads := (resolvePlace pl s).2.ioReads } := by
  cases pl with
  | acc => rfl
  | mem m => exact effAddr_snd m s

theorem resolve_snd (f : Form) (s : State) : (resolve f s).2 = { s with ioReads := (resolve f s).2.ioReads } := by
  cases f with
  | mem m => exact effAddr_snd m s
  | ind ptr => exact indirectTarget_snd ptr s
  | imp => rfl
  | acc => rfl
  | imm v => rfl
  | rel off => rfl

/-- A reading instruction's operand is what the resolver returns, read once (R101). -/
theorem readSource_eq_resolve (src : Source) (s : State) :
    readSource src s =
      match resolve src.form s with
      | (.imm v, t) => (v, t)
      | (.addr ea, t) => t.memRead ea
      | (_, t) => (0, t) := by
  cases src <;> rfl

theorem readLoc_snd (s : State) (l : Loc) : (s.readLoc l).2 = { s with ioReads := (s.readLoc l).2.ioReads } := by
  cases l <;> rfl

/-! ## The resolver's arithmetic in numbers -/

theorem zext16_eq (z : Byte) : zext16 z = BitVec.ofNat 16 (z.toNat % 256) := by
  apply BitVec.eq_of_toNat_eq
  have := z.isLt
  simp [zext16, BitVec.toNat_setWidth]; omega

/-- `sext_16` is the two's-complement value of the byte (R9). -/
theorem sext16_eq (z : Byte) : sext16 z = BitVec.ofInt 16 z.toInt := by
  have hz := z.isLt
  unfold sext16
  rw [BitVec.toInt_eq_toNat_cond]
  by_cases h : z < 0x80#8
  · have h' : z.toNat < 128 := by simpa [BitVec.lt_def] using h
    rw [if_pos h, if_pos (by omega)]
    apply BitVec.eq_of_toNat_eq
    simp [BitVec.toNat_setWidth]
  · have h' : ¬ z.toNat < 128 := by simpa [BitVec.lt_def] using h
    rw [if_neg h, if_neg (by omega)]
    apply BitVec.eq_of_toNat_eq
    simp only [BitVec.toNat_add, BitVec.toNat_setWidth, BitVec.toNat_ofInt, BitVec.toNat_ofNat]
    omega

/-- A branch target as a number (R99). -/
theorem branchTarget_eq (off : Byte) (s : State) :
    branchTarget off s = BitVec.ofInt 16 (s.pc.toNat + off.toInt) := by
  rw [branchTarget, sext16_eq, BitVec.ofInt_add]; simp

end Sys2Proof.Machine
end

