-- ==== Sys2Proof/Laws/Decode.lean ====
section
/-! SUPPORT. The laws of the decoder's parts: bytes and 16-bit fields, the table, and the pairing of mnemonics with
forms. -/

namespace Sys2Proof

@[simp] theorem joinBytes_lo_hi (w : Word) : joinBytes (loByte w) (hiByte w) = w := by
  apply BitVec.eq_of_getLsbD_eq
  intro k hk
  simp only [joinBytes, loByte, hiByte, BitVec.getLsbD_append, BitVec.getLsbD_extractLsb']
  by_cases h : k < 8
  · simp [h]
  · have : 8 + (k - 8) = k := by omega
    have h2 : k - 8 < 8 := by omega
    simp [h, this, h2]

@[simp] theorem loByte_joinBytes (lo hi : Byte) : loByte (joinBytes lo hi) = lo := by
  apply BitVec.eq_of_getLsbD_eq
  intro k hk
  simp only [joinBytes, loByte, BitVec.getLsbD_append, BitVec.getLsbD_extractLsb']
  simp [hk]

@[simp] theorem hiByte_joinBytes (lo hi : Byte) : hiByte (joinBytes lo hi) = hi := by
  apply BitVec.eq_of_getLsbD_eq
  intro k hk
  simp only [joinBytes, hiByte, BitVec.getLsbD_append, BitVec.getLsbD_extractLsb']
  have h : ¬ (8 + k < 8) := by omega
  simp [h, hk]

/-- `(hi << 8) | lo` as a number (R8). -/
theorem joinBytes_toNat (lo hi : Byte) : (joinBytes lo hi).toNat = lo.toNat + 256 * hi.toNat := by
  have h := lo.isLt
  have h2 := Nat.two_pow_add_eq_or_of_lt (i := 8) (b := lo.toNat) (by omega) hi.toNat
  simp only [joinBytes, BitVec.toNat_append, Nat.shiftLeft_eq]
  rw [Nat.mul_comm, ← h2]
  omega

theorem joinBytes_eq (lo hi : Byte) : joinBytes lo hi = BitVec.ofNat 16 (lo.toNat + 256 * hi.toNat) := by
  rw [← joinBytes_toNat]; simp

theorem hiByte_eq (w : Word) : hiByte w = BitVec.ofNat 8 (w.toNat / 256) := by
  apply BitVec.eq_of_toNat_eq; simp [hiByte, BitVec.extractLsb'_toNat, Nat.shiftRight_eq_div_pow]

theorem loByte_eq (w : Word) : loByte w = BitVec.ofNat 8 w.toNat := by
  apply BitVec.eq_of_toNat_eq; simp [loByte, BitVec.extractLsb'_toNat]

/-- Every instruction is well paired (R84). -/
theorem Laws.instr_wf (i : Instr) : i.wf = true := by
  cases i <;> rfl

/-- A mapped opcode's row carries that opcode. -/
theorem lookup_opcode {op : Byte} {r : Row} (h : lookup op = some r) : r.opcode = op := by
  simpa using List.find?_some h

/-- A mapped opcode's row is a row of the table. -/
theorem lookup_mem {op : Byte} {r : Row} (h : lookup op = some r) : r ∈ table :=
  List.mem_flatMap.mpr ⟨op.toNat / 16, List.mem_range.mpr (by have := op.isLt; omega), List.mem_of_find?_eq_some h⟩

end Sys2Proof
end

