-- ==== Sys2Proof/Laws/Exec.lean ====
section
/-! SUPPORT. What each meaning answers, said once: `exec` by mnemonic and form, and one equation per shared meaning
whose right side is the state before with the fields it writes. Proofs over all instructions go by `exec_eq_execOf` and
the cases of the mnemonic. -/

namespace Sys2Proof.Machine

/-- The meaning of a reading instruction, for the forms that have a source. -/
def withSource (f : Form) (g : Source → Result) (s : State) : Result :=
  match f.source? with
  | some src => g src
  | none => .next s

/-- The meaning of a read-modify-write instruction, for the forms that have a place. -/
def withPlace (f : Form) (g : Place → Result) (s : State) : Result :=
  match f.place? with
  | some pl => g pl
  | none => .next s

/-- The meaning of an instruction on memory, for the forms that have an effective address. -/
def withMem (f : Form) (g : MemForm → Result) (s : State) : Result :=
  match f.memForm? with
  | some m => g m
  | none => .next s

/-- The meaning of a branch, for the relative form. -/
def withOffset (f : Form) (g : Byte → Result) (s : State) : Result :=
  match f with
  | .rel off => g off
  | .imp | .acc | .imm _ | .mem _ | .ind _ => .next s

/-- The target of a jump and the state its resolver leaves. -/
def jumpTarget (f : Form) (s : State) : Word × State :=
  match f with
  | .mem m => effAddr m s
  | .ind ptr => indirectTarget ptr s
  | .imp | .acc | .imm _ | .rel _ => (s.pc, s)

/-- `exec` written by mnemonic and form. -/
def execOf (m : Mnemonic) (f : Form) (s : State) : Result :=
  match m with
  | .lda => withSource f (lda · s) s
  | .ldx => withSource f (ldx · s) s
  | .ldy => withSource f (ldy · s) s
  | .sta => withMem f (store · s.a s) s
  | .stx => withMem f (store · s.x s) s
  | .sty => withMem f (store · s.y s) s
  | .adc => withSource f (adc · s) s
  | .sbc => withSource f (sbc · s) s
  | .and => withSource f (logicA (· &&& ·) · s) s
  | .ora => withSource f (logicA (· ||| ·) · s) s
  | .eor => withSource f (logicA (· ^^^ ·) · s) s
  | .cmp => withSource f (compareWith s.a · s) s
  | .cpx => withSource f (compareWith s.x · s) s
  | .cpy => withSource f (compareWith s.y · s) s
  | .bit => withSource f (bitTest · s) s
  | .asl => withPlace f (shift shiftLeft · s) s
  | .lsr => withPlace f (shift shiftRight · s) s
  | .rol => withPlace f (shift rotateLeft · s) s
  | .ror => withPlace f (shift rotateRight · s) s
  | .inc => withMem f (modifyCell (· + 1) · s) s
  | .dec => withMem f (modifyCell (· - 1) · s) s
  | .inx => setX (s.x + 1) s
  | .iny => setY (s.y + 1) s
  | .dex => setX (s.x - 1) s
  | .dey => setY (s.y - 1) s
  | .tax => setX s.a s
  | .tay => setY s.a s
  | .txa => transferA s.x s
  | .tya => transferA s.y s
  | .tsx => setX s.sp s
  | .txs => .next { s with sp := s.x }
  | .pha => pushOne s.a s
  | .pla => pullOne (fun v t => { t with a := v, p := setNZ v t.p }) s
  | .php => pushOne (pushedStatus s.p) s
  | .plp => pullOne (fun v t => { t with p := pulledStatus v }) s
  | .clc => writeFlag .c false s
  | .sec => writeFlag .c true s
  | .cli => writeFlag .i false s
  | .sei => writeFlag .i true s
  | .clv => writeFlag .v false s
  | .cld => writeFlag .d false s
  | .sed => writeFlag .d true s
  | .nop => .next s
  | .bpl => withOffset f (branchIf (!s.flag .n) · s) s
  | .bmi => withOffset f (branchIf (s.flag .n) · s) s
  | .bvc => withOffset f (branchIf (!s.flag .v) · s) s
  | .bvs => withOffset f (branchIf (s.flag .v) · s) s
  | .bcc => withOffset f (branchIf (!s.flag .c) · s) s
  | .bcs => withOffset f (branchIf (s.flag .c) · s) s
  | .bne => withOffset f (branchIf (!s.flag .z) · s) s
  | .beq => withOffset f (branchIf (s.flag .z) · s) s
  | .jmp => jumpTo (jumpTarget f s)
  | .jsr => s.settle (s.opcodeAddr 3) (s.callSubroutine (s.opcodeAddr 3) (jumpTarget f s).1)
  | .rts => s.settle (s.opcodeAddr 1) (s.returnFromSubroutine (s.opcodeAddr 1))
  | .brk => s.settle (s.opcodeAddr 1) (s.takeBreak (s.opcodeAddr 1))
  | .rti => s.settle (s.opcodeAddr 1) (s.returnFromBreak (s.opcodeAddr 1))

theorem exec_eq_execOf (i : Instr) (s : State) : exec i s = execOf i.mnemonic i.form s := by
  cases i <;> rfl

/-- A mnemonic that only reads an operand has a source in every form the table gives it. -/
theorem source_of_wf {m : Mnemonic} {f : Form} (h : WellFormed m f = true)
    (hm : m ∈ [.lda, .ldx, .ldy, .adc, .sbc, .and, .ora, .eor, .cmp, .cpx, .cpy, .bit]) :
    ∃ src, f.source? = some src := by
  cases f with
  | imm v => exact ⟨_, rfl⟩
  | mem e => exact ⟨_, rfl⟩
  | imp | acc | ind _ | rel _ => fin_cases hm <;> simp [WellFormed, Mnemonic.modes, Form.mode] at h

/-- A store, INC or DEC has an effective address in every form the table gives it. -/
theorem memForm_of_wf {m : Mnemonic} {f : Form} (h : WellFormed m f = true)
    (hm : m ∈ [.sta, .stx, .sty, .inc, .dec]) : ∃ e, f.memForm? = some e := by
  cases f with
  | mem e => exact ⟨_, rfl⟩
  | imp | acc | imm _ | ind _ | rel _ => fin_cases hm <;> simp [WellFormed, Mnemonic.modes, Form.mode] at h

/-- A shift or a rotate has a place in every form the table gives it. -/
theorem place_of_wf {m : Mnemonic} {f : Form} (h : WellFormed m f = true)
    (hm : m ∈ [.asl, .lsr, .rol, .ror]) : ∃ pl, f.place? = some pl := by
  cases f with
  | acc => exact ⟨_, rfl⟩
  | mem e => exact ⟨_, rfl⟩
  | imp | imm _ | ind _ | rel _ => fin_cases hm <;> simp [WellFormed, Mnemonic.modes, Form.mode] at h

/-- A form with a source is that source's form. -/
theorem Form.source?_eq {f : Form} {src : Source} (h : f.source? = some src) : f = src.form := by
  cases f <;> simp [Form.source?] at h <;> subst h <;> rfl

/-! ## One equation per shared meaning -/

theorem lda_eq (src : Source) (s : State) :
    lda src s = .next { s with
      a := (readSource src s).1, p := setNZ (readSource src s).1 s.p, ioReads := (readSource src s).2.ioReads } := by
  unfold lda; simp only; rw [readSource_snd]

theorem ldx_eq (src : Source) (s : State) :
    ldx src s = .next { s with
      x := (readSource src s).1, p := setNZ (readSource src s).1 s.p, ioReads := (readSource src s).2.ioReads } := by
  unfold ldx; simp only; rw [readSource_snd]

theorem ldy_eq (src : Source) (s : State) :
    ldy src s = .next { s with
      y := (readSource src s).1, p := setNZ (readSource src s).1 s.p, ioReads := (readSource src s).2.ioReads } := by
  unfold ldy; simp only; rw [readSource_snd]

/-- Whether an address is a device depends on the parameters alone. -/
theorem State.atDevice_congr {s t : State} (h : t.params = s.params) (a : Word) : t.atDevice a = s.atDevice a := by
  simp [State.atDevice, h]

theorem store_eq (m : MemForm) (v : Byte) (s : State) :
    store m v s = .next { s with
      mem := (s.memWrite (effAddr m s).1 v).mem
      ioWrites := (s.memWrite (effAddr m s).1 v).ioWrites
      ioReads := (effAddr m s).2.ioReads } := by
  unfold store; simp only
  rw [effAddr_snd]
  rfl

/-- ADC where it is not refused (R181). -/
theorem adc_eq (src : Source) {s : State} (h : s.refusesDecimal = false) :
    adc src s = .next { s with
      a := (addCarry s.a (readSource src s).1 (s.flag .c)).value
      p := addFlags (addCarry s.a (readSource src s).1 (s.flag .c)) s.p
      ioReads := (readSource src s).2.ioReads } := by
  simp only [adc, h, Bool.false_eq_true, if_false]
  rw [readSource_snd]
  rfl

/-- SBC where it is not refused (R182). -/
theorem sbc_eq (src : Source) {s : State} (h : s.refusesDecimal = false) :
    sbc src s = .next { s with
      a := (subBorrow s.a (readSource src s).1 (s.flag .c)).value
      p := addFlags (subBorrow s.a (readSource src s).1 (s.flag .c)) s.p
      ioReads := (readSource src s).2.ioReads } := by
  simp only [sbc, h, Bool.false_eq_true, if_false]
  rw [readSource_snd]
  rfl

theorem logicA_eq (op : Byte → Byte → Byte) (src : Source) (s : State) :
    logicA op src s = .next { s with
      a := op s.a (readSource src s).1, p := setNZ (op s.a (readSource src s).1) s.p
      ioReads := (readSource src s).2.ioReads } := by
  unfold logicA; simp only; rw [readSource_snd]

theorem compareWith_eq (reg : Byte) (src : Source) (s : State) :
    compareWith reg src s = .next { s with
      p := compareFlags reg (readSource src s).1 s.p, ioReads := (readSource src s).2.ioReads } := by
  unfold compareWith; simp only; rw [readSource_snd]

theorem bitTest_eq (src : Source) (s : State) :
    bitTest src s = .next { s with
      p := bitFlags s.a (readSource src s).1 s.p, ioReads := (readSource src s).2.ioReads } := by
  unfold bitTest; simp only; rw [readSource_snd]

/-- A shift of A. -/
theorem shift_acc_eq (op : Byte → Bool → ShiftResult) (s : State) :
    shift op .acc s = .next { s with
      a := (op s.a (s.flag .c)).value, p := shiftFlags (op s.a (s.flag .c)) s.p } := rfl

/-- A read-modify-write of one cell: the byte read, and the state with another byte stored and the draws counted. -/
theorem modifyCell_eq (op : Byte → Byte) (m : MemForm) (s : State) :
    modifyCell op m s =
      let ea := effAddr m s
      let v := ea.2.memRead ea.1
      .next { s with
        mem := (s.memWrite ea.1 (op v.1)).mem
        ioWrites := (s.memWrite ea.1 (op v.1)).ioWrites
        p := setNZ (op v.1) s.p
        ioReads := v.2.ioReads } := by
  unfold modifyCell; simp only
  rw [effAddr_snd]
  rfl

/-- A shift of a cell. -/
theorem shift_mem_eq (op : Byte → Bool → ShiftResult) (m : MemForm) (s : State) :
    shift op (.mem m) s =
      let ea := effAddr m s
      let v := ea.2.memRead ea.1
      let r := op v.1 (s.flag .c)
      .next { s with
        mem := (s.memWrite ea.1 r.value).mem
        ioWrites := (s.memWrite ea.1 r.value).ioWrites
        p := shiftFlags r s.p
        ioReads := v.2.ioReads } := by
  unfold shift resolvePlace; simp only
  rw [effAddr_snd]
  rfl

/-- What a refused ADC or SBC is refused for (R264). -/
theorem State.refusesDecimal_iff (s : State) :
    s.refusesDecimal = true ↔ s.params.decimalMode = .refuse ∧ s.flag .d = true := by
  simp [State.refusesDecimal]

theorem State.refusesDecimal_false {s : State} (h : ¬ (s.params.decimalMode = .refuse ∧ s.flag .d = true)) :
    s.refusesDecimal = false := by
  rw [← Bool.not_eq_true, s.refusesDecimal_iff]
  exact h

end Sys2Proof.Machine
end

