-- ==== Sys2Proof/Laws/Stack.lean ====
section
/-! SUPPORT. The stack page arbiter and the operations built on it: where no access faults, the state each leaves, in
closed form; where one would (`STACK_POLICY = fault`), that it raises StackBoundary. -/

namespace Sys2Proof.Machine

theorem stackCell_toNat (k : Nat) : (stackCell k).toNat = 0x100 + k % 256 := by
  simp [stackCell]; omega

theorem stackCell_eq (k : Nat) : stackCell k = stackAddr (BitVec.ofNat 8 k) := by
  apply BitVec.eq_of_toNat_eq
  rw [stackCell_toNat, stackAddr_toNat]
  simp

@[simp] theorem canon_stackCell (k : Nat) : canon (stackCell k) = stackCell k := by
  rw [stackCell_eq, canon_stackAddr]

theorem stackAddr_sub (sp : Byte) (n : Nat) (h : n ≤ 256) :
    stackAddr (sp - BitVec.ofNat 8 n) = stackCell (sp.toNat + (256 - n)) := by
  rw [stackCell_eq, stackAddr_inj]
  apply BitVec.eq_of_toNat_eq
  have := sp.isLt
  simp only [BitVec.toNat_sub, BitVec.toNat_ofNat]
  omega

theorem stackAddr_add (sp : Byte) (n : Nat) : stackAddr (sp + BitVec.ofNat 8 n) = stackCell (sp.toNat + n) := by
  rw [stackCell_eq, stackAddr_inj]
  apply BitVec.eq_of_toNat_eq
  simp [BitVec.toNat_add]

theorem stackAddr_eq_stackCell (sp : Byte) : stackAddr sp = stackCell sp.toNat := by
  rw [stackCell_eq, BitVec.ofNat_toNat, BitVec.setWidth_eq]

/-- Successive accesses of one instruction wrap S at most once. -/
theorem wrapDiag_push (sp n m : Nat) (k : StackKind) (a0 : Word) (hsp : sp < 256) (h : n + m ≤ 256) :
    wrapDiag (sp < n) k a0 ++ wrapDiag ((sp + (256 - n)) % 256 < m) k a0 = wrapDiag (sp < n + m) k a0 := by
  by_cases h1 : sp < n
  · have h2 : ¬ ((sp + (256 - n)) % 256 < m) := by omega
    have h3 : sp < n + m := by omega
    simp [wrapDiag, h1, h2, h3]
  · have h2 : ((sp + (256 - n)) % 256 < m) ↔ sp < n + m := by omega
    by_cases h3 : sp < n + m <;> simp [wrapDiag, h1, h2, h3]

theorem wrapDiag_pop (sp n m : Nat) (k : StackKind) (a0 : Word) (hsp : sp < 256) (h : n + m ≤ 256) :
    wrapDiag (255 < sp + n) k a0 ++ wrapDiag (255 < (sp + n) % 256 + m) k a0 = wrapDiag (255 < sp + (n + m)) k a0 := by
  by_cases h1 : 255 < sp + n
  · have h2 : ¬ (255 < (sp + n) % 256 + m) := by omega
    have h3 : 255 < sp + (n + m) := by omega
    simp [wrapDiag, h1, h2, h3]
  · have h2 : (255 < (sp + n) % 256 + m) ↔ 255 < sp + (n + m) := by omega
    by_cases h3 : 255 < sp + (n + m) <;> simp [wrapDiag, h1, h2, h3]

/-- A push that does not fault (R71): under `wrap` always, under `fault` while S is not 0x00. -/
theorem State.push_next {s : State} (h : s.params.stackPolicy = .wrap ∨ 1 ≤ s.sp.toNat) (a0 : Word) (v : Byte) :
    s.push a0 v = .ok { s with
      mem := Memory.write s.mem (stackCell s.sp.toNat).toNat v
      sp := s.sp - 1
      diags := s.diags ++ wrapDiag (s.sp.toNat < 1) .push a0 } := by
  have hf : s.stackFaults .push = false := by
    rcases h with h | h
    · exact State.stackFaults_wrap h _
    · exact State.stackFaults_push fun e => by simp [e] at h
  rw [State.push_ok hf, stackAddr_eq_stackCell]
  have hz : s.sp = 0 ↔ s.sp.toNat < 1 := by
    rw [← BitVec.toNat_inj]; simp
  by_cases h0 : s.sp.toNat < 1
  · simp [hz.mpr h0, wrapDiag]
  · simp only [if_neg (mt hz.mp h0)]
    simp [h0, wrapDiag]

/-- A pop that does not fault (R72): under `wrap` always, under `fault` while S is not 0xFF. -/
theorem State.pop_next {s : State} (h : s.params.stackPolicy = .wrap ∨ s.sp.toNat + 1 ≤ 255) (a0 : Word) :
    s.pop a0 = .ok (s.peek (stackCell (s.sp.toNat + 1)), { s with
      sp := s.sp + 1
      diags := s.diags ++ wrapDiag (255 < s.sp.toNat + 1) .pop a0 }) := by
  have hf : s.stackFaults .pop = false := by
    rcases h with h | h
    · exact State.stackFaults_wrap h _
    · exact State.stackFaults_pop fun e => by simp [e] at h
  rw [State.pop_ok hf, show s.sp + 1 = s.sp + BitVec.ofNat 8 1 from rfl, stackAddr_add]
  have hz : s.sp = 0xFF ↔ 255 < s.sp.toNat + 1 := by
    rw [← BitVec.toNat_inj]; have := s.sp.isLt; simp; omega
  by_cases h0 : 255 < s.sp.toNat + 1
  · simp [hz.mpr h0, wrapDiag]
  · simp only [if_neg (mt hz.mp h0)]
    simp [h0, wrapDiag]

theorem sp_sub_toNat (sp : Byte) (n : Nat) (h : n ≤ 256) :
    (sp - BitVec.ofNat 8 n).toNat = (sp.toNat + (256 - n)) % 256 := by
  have := sp.isLt
  simp only [BitVec.toNat_sub, BitVec.toNat_ofNat]
  omega

theorem sp_add_toNat (sp : Byte) (n : Nat) : (sp + BitVec.ofNat 8 n).toNat = (sp.toNat + n) % 256 := by
  simp [BitVec.toNat_add]

/-- A 16-bit push that does not fault (R76): the high byte at S, the low byte below it. -/
theorem State.push16_next {s : State} (h : s.params.stackPolicy = .wrap ∨ 2 ≤ s.sp.toNat) (a0 v : Word) :
    s.push16 a0 v = .ok { s with
      mem := Memory.write (Memory.write s.mem (stackCell s.sp.toNat).toNat (hiByte v))
        (stackCell (s.sp.toNat + 255)).toNat (loByte v)
      sp := s.sp - 2
      diags := s.diags ++ wrapDiag (s.sp.toNat < 2) .push a0 } := by
  have h1 : s.params.stackPolicy = .wrap ∨ 1 ≤ s.sp.toNat := h.imp_right (by omega)
  have hsp := s.sp.isLt
  have e1 := sp_sub_toNat s.sp 1 (by omega)
  simp only [State.push16, State.push_next h1]
  rw [State.push_next]
  · simp only [Except.ok.injEq, State.mk.injEq, true_and, and_true]
    have e1' : (s.sp - 1).toNat = (s.sp.toNat + 255) % 256 := e1
    refine ⟨by bv_omega, ?_, ?_⟩
    · rw [e1']; simp [stackCell]
    · rw [e1', List.append_assoc, wrapDiag_push _ 1 1 _ _ hsp (by omega)]
  · refine h.imp_right fun h => ?_
    show 1 ≤ (s.sp - 1).toNat
    rw [show (s.sp - 1).toNat = _ from e1]; omega

/-- A 16-bit pop that does not fault (R76): the low byte first. -/
theorem State.pop16_next {s : State} (h : s.params.stackPolicy = .wrap ∨ s.sp.toNat + 2 ≤ 255) (a0 : Word) :
    s.pop16 a0 = .ok
      (joinBytes (s.peek (stackCell (s.sp.toNat + 1))) (s.peek (stackCell (s.sp.toNat + 2))), { s with
        sp := s.sp + 2
        diags := s.diags ++ wrapDiag (255 < s.sp.toNat + 2) .pop a0 }) := by
  have h1 : s.params.stackPolicy = .wrap ∨ s.sp.toNat + 1 ≤ 255 := h.imp_right (by omega)
  have hsp := s.sp.isLt
  have e1 : (s.sp + 1).toNat = (s.sp.toNat + 1) % 256 := sp_add_toNat s.sp 1
  simp only [State.pop16, State.pop_next h1]
  rw [State.pop_next]
  · simp only [Except.ok.injEq, Prod.mk.injEq, State.mk.injEq, true_and, and_true]
    refine ⟨?_, by bv_omega, ?_⟩
    · rw [e1, show stackCell ((s.sp.toNat + 1) % 256 + 1) = stackCell (s.sp.toNat + 2) by simp [stackCell]]
      rfl
    · rw [e1, List.append_assoc, wrapDiag_pop _ 1 1 _ _ hsp (by omega)]
  · refine h.imp_right fun h => ?_
    show (s.sp + 1).toNat + 1 ≤ 255
    rw [e1]; omega

/-- JSR's pushes and jump, where no push faults (R151). -/
theorem State.callSubroutine_next {s : State} (h : s.params.stackPolicy = .wrap ∨ 2 ≤ s.sp.toNat) (a0 target : Word) :
    s.callSubroutine a0 target = .ok { s with
      pc := target
      mem := Memory.write (Memory.write s.mem (stackCell s.sp.toNat).toNat (hiByte (s.pc - 1)))
        (stackCell (s.sp.toNat + 255)).toNat (loByte (s.pc - 1))
      sp := s.sp - 2
      diags := s.diags ++ wrapDiag (s.sp.toNat < 2) .push a0 } := by
  simp only [State.callSubroutine, State.push16_next h]

/-- RTS's pops and return, where no pop faults (R152). -/
theorem State.returnFromSubroutine_next {s : State} (h : s.params.stackPolicy = .wrap ∨ s.sp.toNat + 2 ≤ 255)
    (a0 : Word) :
    s.returnFromSubroutine a0 = .ok { s with
      pc := joinBytes (s.peek (stackCell (s.sp.toNat + 1))) (s.peek (stackCell (s.sp.toNat + 2))) + 1
      sp := s.sp + 2
      diags := s.diags ++ wrapDiag (255 < s.sp.toNat + 2) .pop a0 } := by
  simp only [State.returnFromSubroutine, State.pop16_next h]

/-- Two reads that go to no device give the two cells and change nothing. -/
theorem State.readPair_plain {s : State} {lo hi : Word} (h1 : s.atDevice lo = false) (h2 : s.atDevice hi = false) :
    s.readPair lo hi = (joinBytes (s.peek lo) (s.peek hi), s) := by
  simp [State.readPair, State.memRead, h1, h2]

/-- The vector BRK reads is two plain cells (R153). -/
theorem State.read16_breakVector (s : State) :
    s.read16 breakVector = (joinBytes (s.peek 0xFFFE) (s.peek 0xFFFF), s) :=
  State.readPair_plain (by simp [State.atDevice, isDeviceCell, canon, breakVector])
    (by simp [State.atDevice, isDeviceCell, canon, breakVector])

theorem stackCell_ne_high (k : Nat) {b : Word} (h : 0x200 ≤ (canon b).toNat) : (canon b).toNat ≠ (stackCell k).toNat := by
  rw [stackCell_toNat]; omega

/-- Taking the exception, where no push faults (R153): three bytes pushed, I set, PC from the vector. -/
theorem State.takeBreak_next {s : State} (h : s.params.stackPolicy = .wrap ∨ 3 ≤ s.sp.toNat) (a0 : Word) :
    s.takeBreak a0 = .ok { s with
      pc := joinBytes (s.peek 0xFFFE) (s.peek 0xFFFF)
      p := setFlag .i true s.p
      mem := Memory.write
        (Memory.write (Memory.write s.mem (stackCell s.sp.toNat).toNat (hiByte (s.pc + 1)))
          (stackCell (s.sp.toNat + 255)).toNat (loByte (s.pc + 1)))
        (stackCell (s.sp.toNat + 254)).toNat (pushedStatus s.p)
      sp := s.sp - 3
      diags := s.diags ++ wrapDiag (s.sp.toNat < 3) .push a0 } := by
  have h2 : s.params.stackPolicy = .wrap ∨ 2 ≤ s.sp.toNat := h.imp_right (by omega)
  have hsp := s.sp.isLt
  have e2 : (s.sp - 2).toNat = (s.sp.toNat + 254) % 256 := sp_sub_toNat s.sp 2 (by omega)
  simp only [State.takeBreak, State.push16_next h2]
  rw [State.push_next]
  · simp only [State.read16_breakVector, State.peek, Except.ok.injEq]
    have n1 := fun k => stackCell_ne_high k (b := 0xFFFE) (by decide)
    have n2 := fun k => stackCell_ne_high k (b := 0xFFFF) (by decide)
    rw [Memory.read_write_ne _ _ (n1 _), Memory.read_write_ne _ _ (n1 _), Memory.read_write_ne _ _ (n1 _),
      Memory.read_write_ne _ _ (n2 _), Memory.read_write_ne _ _ (n2 _), Memory.read_write_ne _ _ (n2 _)]
    simp only [State.mk.injEq, true_and, and_true]
    refine ⟨by bv_omega, ?_, ?_⟩
    · rw [e2]; simp [stackCell, State.breakReturn]
    · rw [e2, List.append_assoc, wrapDiag_push _ 2 1 _ _ hsp (by omega)]
  · refine h.imp_right fun h => ?_
    show 1 ≤ (s.sp - 2).toNat
    rw [e2]; omega

/-- Returning from the exception, where no pop faults (R154). -/
theorem State.returnFromBreak_next {s : State} (h : s.params.stackPolicy = .wrap ∨ s.sp.toNat + 3 ≤ 255) (a0 : Word) :
    s.returnFromBreak a0 = .ok { s with
      p := pulledStatus (s.peek (stackCell (s.sp.toNat + 1)))
      pc := joinBytes (s.peek (stackCell (s.sp.toNat + 2))) (s.peek (stackCell (s.sp.toNat + 3)))
      sp := s.sp + 3
      diags := s.diags ++ wrapDiag (255 < s.sp.toNat + 3) .pop a0 } := by
  have h1 : s.params.stackPolicy = .wrap ∨ s.sp.toNat + 1 ≤ 255 := h.imp_right (by omega)
  have hsp := s.sp.isLt
  have e1 : (s.sp + 1).toNat = (s.sp.toNat + 1) % 256 := sp_add_toNat s.sp 1
  simp only [State.returnFromBreak, State.pop_next h1]
  rw [State.pop16_next]
  · simp only [Except.ok.injEq, State.mk.injEq, true_and, and_true]
    refine ⟨by bv_omega, ?_, ?_⟩
    · rw [e1]; simp only [stackCell, State.peek, Nat.mod_add_mod]
    · rw [e1, List.append_assoc, wrapDiag_pop _ 1 2 _ _ hsp (by omega)]
  · refine h.imp_right fun h => ?_
    show (s.sp + 1).toNat + 2 ≤ 255
    rw [e1]; omega

/-! Under `STACK_POLICY = fault`, at or too near the boundary. -/

theorem State.push_fault {s : State} (hp : s.params.stackPolicy = .fault) (h : s.sp.toNat < 1) (a0 : Word) (v : Byte) :
    s.push a0 v = .error .push := by
  have hz : s.sp = 0 := by rw [← BitVec.toNat_inj]; simp; omega
  exact State.push_error (by simp [State.stackFaults, StackKind.wraps, hp, hz]) a0 v

theorem State.pop_fault {s : State} (hp : s.params.stackPolicy = .fault) (h : 255 < s.sp.toNat + 1) (a0 : Word) :
    s.pop a0 = .error .pop := by
  have hz : s.sp = 0xFF := by rw [← BitVec.toNat_inj]; have := s.sp.isLt; simp; omega
  exact State.pop_error (by simp [State.stackFaults, StackKind.wraps, hp, hz]) a0

theorem State.push16_fault {s : State} (hp : s.params.stackPolicy = .fault) (h : s.sp.toNat < 2) (a0 v : Word) :
    s.push16 a0 v = .error .push := by
  by_cases h1 : s.sp.toNat < 1
  · simp only [State.push16, State.push_fault hp h1]
  · simp only [State.push16, State.push_next (s := s) (.inr (by omega))]
    have e1 : (s.sp - 1).toNat = (s.sp.toNat + 255) % 256 := sp_sub_toNat s.sp 1 (by omega)
    rw [State.push_fault]
    · exact hp
    · show (s.sp - 1).toNat < 1; omega

theorem State.pop16_fault {s : State} (hp : s.params.stackPolicy = .fault) (h : 255 < s.sp.toNat + 2) (a0 : Word) :
    s.pop16 a0 = .error .pop := by
  by_cases h1 : 255 < s.sp.toNat + 1
  · simp only [State.pop16, State.pop_fault hp h1]
  · simp only [State.pop16, State.pop_next (s := s) (.inr (by omega))]
    have e1 : (s.sp + 1).toNat = (s.sp.toNat + 1) % 256 := sp_add_toNat s.sp 1
    rw [State.pop_fault]
    · exact hp
    · show 255 < (s.sp + 1).toNat + 1; omega

theorem State.callSubroutine_fault {s : State} (hp : s.params.stackPolicy = .fault) (h : s.sp.toNat < 2)
    (a0 target : Word) : s.callSubroutine a0 target = .error .push := by
  simp only [State.callSubroutine, State.push16_fault hp h]

theorem State.returnFromSubroutine_fault {s : State} (hp : s.params.stackPolicy = .fault) (h : 255 < s.sp.toNat + 2)
    (a0 : Word) : s.returnFromSubroutine a0 = .error .pop := by
  simp only [State.returnFromSubroutine, State.pop16_fault hp h]

theorem State.takeBreak_fault {s : State} (hp : s.params.stackPolicy = .fault) (h : s.sp.toNat < 3) (a0 : Word) :
    s.takeBreak a0 = .error .push := by
  by_cases h1 : s.sp.toNat < 2
  · simp only [State.takeBreak, State.push16_fault hp h1]
  · simp only [State.takeBreak, State.push16_next (s := s) (.inr (by omega))]
    have e2 : (s.sp - 2).toNat = (s.sp.toNat + 254) % 256 := sp_sub_toNat s.sp 2 (by omega)
    rw [State.push_fault]
    · exact hp
    · show (s.sp - 2).toNat < 1; omega

theorem State.returnFromBreak_fault {s : State} (hp : s.params.stackPolicy = .fault) (h : 255 < s.sp.toNat + 3)
    (a0 : Word) : s.returnFromBreak a0 = .error .pop := by
  by_cases h1 : 255 < s.sp.toNat + 1
  · simp only [State.returnFromBreak, State.pop_fault hp h1]
  · simp only [State.returnFromBreak, State.pop_next (s := s) (.inr (by omega))]
    have e1 : (s.sp + 1).toNat = (s.sp.toNat + 1) % 256 := sp_add_toNat s.sp 1
    rw [State.pop16_fault]
    · exact hp
    · show 255 < (s.sp + 1).toNat + 2; omega

/-- A byte of a cell after a write to a stack cell. -/
theorem Memory.read_write_stackCell (m : Memory) (k : Nat) (v : Byte) (b : Word) :
    Memory.read (Memory.write m (stackCell k).toNat v) (canon b).toNat =
      if canon b = stackCell k then v else Memory.read m (canon b).toNat := by
  split
  · rename_i h; rw [h]; simp
  · rename_i h; exact Memory.read_write_ne _ _ fun e => h (BitVec.toNat_inj.mp e)

theorem stackCell_ne {j k : Nat} (h : j % 256 ≠ k % 256) : stackCell j ≠ stackCell k := by
  intro e
  have := congrArg BitVec.toNat e
  rw [stackCell_toNat, stackCell_toNat] at this
  omega

theorem sp_sub_eq (sp : Byte) (n : Nat) (h : n ≤ 256) :
    sp - BitVec.ofNat 8 n = BitVec.ofNat 8 (sp.toNat + (256 - n)) := by
  apply BitVec.eq_of_toNat_eq
  have := sp.isLt
  simp only [BitVec.toNat_sub, BitVec.toNat_ofNat]
  omega

theorem sp_add_eq (sp : Byte) (n : Nat) : sp + BitVec.ofNat 8 n = BitVec.ofNat 8 (sp.toNat + n) := by
  apply BitVec.eq_of_toNat_eq; simp [BitVec.toNat_add]

end Sys2Proof.Machine
end

