-- ==== Sys2Proof/Laws/PerInstr.lean ====
section
/-! SUPPORT. Per instruction: the row the table holds for its opcode (30_encoding.md R82, R84). -/

namespace Sys2Proof.Laws.TableRow

/-- The table maps the instruction's opcode to a row with its mnemonic and mode, whose operand field makes it. -/
def Statement (i : Instr) : Prop :=
  ∃ r, lookup i.opcode = some r ∧ r.opcode = i.opcode ∧ r.mnemonic = i.mnemonic ∧ r.mode = i.form.mode ∧
    ∀ rest, r.build (i.form.operandBytes ++ rest) = .ok (i, rest)

theorem ldaIzx (z : Byte) : Statement (.ldaIzx z) :=
  ⟨⟨0xA1, .lda, .izx, 6, .byte .ldaIzx⟩, (rfl : lookup 0xA1 = _), rfl, rfl, rfl,
    fun _ => rfl⟩
theorem ldaZp (z : Byte) : Statement (.ldaZp z) :=
  ⟨⟨0xA5, .lda, .zp, 3, .byte .ldaZp⟩, (rfl : lookup 0xA5 = _), rfl, rfl, rfl,
    fun _ => rfl⟩
theorem ldaImm (v : Byte) : Statement (.ldaImm v) :=
  ⟨⟨0xA9, .lda, .imm, 2, .byte .ldaImm⟩, (rfl : lookup 0xA9 = _), rfl, rfl, rfl,
    fun _ => rfl⟩
theorem ldaAbs (a : Word) : Statement (.ldaAbs a) :=
  ⟨⟨0xAD, .lda, .abs, 4, .word .ldaAbs⟩, (rfl : lookup 0xAD = _), rfl, rfl, rfl,
    fun _ => by simp [Row.build, Instr.form, Form.operandBytes, MemForm.operandBytes]⟩
theorem ldaIzy (z : Byte) : Statement (.ldaIzy z) :=
  ⟨⟨0xB1, .lda, .izy, 5, .byte .ldaIzy⟩, (rfl : lookup 0xB1 = _), rfl, rfl, rfl,
    fun _ => rfl⟩
theorem ldaZpx (z : Byte) : Statement (.ldaZpx z) :=
  ⟨⟨0xB5, .lda, .zpx, 4, .byte .ldaZpx⟩, (rfl : lookup 0xB5 = _), rfl, rfl, rfl,
    fun _ => rfl⟩
theorem ldaAby (a : Word) : Statement (.ldaAby a) :=
  ⟨⟨0xB9, .lda, .aby, 4, .word .ldaAby⟩, (rfl : lookup 0xB9 = _), rfl, rfl, rfl,
    fun _ => by simp [Row.build, Instr.form, Form.operandBytes, MemForm.operandBytes]⟩
theorem ldaAbx (a : Word) : Statement (.ldaAbx a) :=
  ⟨⟨0xBD, .lda, .abx, 4, .word .ldaAbx⟩, (rfl : lookup 0xBD = _), rfl, rfl, rfl,
    fun _ => by simp [Row.build, Instr.form, Form.operandBytes, MemForm.operandBytes]⟩
theorem ldxImm (v : Byte) : Statement (.ldxImm v) :=
  ⟨⟨0xA2, .ldx, .imm, 2, .byte .ldxImm⟩, (rfl : lookup 0xA2 = _), rfl, rfl, rfl,
    fun _ => rfl⟩
theorem ldxZp (z : Byte) : Statement (.ldxZp z) :=
  ⟨⟨0xA6, .ldx, .zp, 3, .byte .ldxZp⟩, (rfl : lookup 0xA6 = _), rfl, rfl, rfl,
    fun _ => rfl⟩
theorem ldxAbs (a : Word) : Statement (.ldxAbs a) :=
  ⟨⟨0xAE, .ldx, .abs, 4, .word .ldxAbs⟩, (rfl : lookup 0xAE = _), rfl, rfl, rfl,
    fun _ => by simp [Row.build, Instr.form, Form.operandBytes, MemForm.operandBytes]⟩
theorem ldxZpy (z : Byte) : Statement (.ldxZpy z) :=
  ⟨⟨0xB6, .ldx, .zpy, 4, .byte .ldxZpy⟩, (rfl : lookup 0xB6 = _), rfl, rfl, rfl,
    fun _ => rfl⟩
theorem ldxAby (a : Word) : Statement (.ldxAby a) :=
  ⟨⟨0xBE, .ldx, .aby, 4, .word .ldxAby⟩, (rfl : lookup 0xBE = _), rfl, rfl, rfl,
    fun _ => by simp [Row.build, Instr.form, Form.operandBytes, MemForm.operandBytes]⟩
theorem ldyImm (v : Byte) : Statement (.ldyImm v) :=
  ⟨⟨0xA0, .ldy, .imm, 2, .byte .ldyImm⟩, (rfl : lookup 0xA0 = _), rfl, rfl, rfl,
    fun _ => rfl⟩
theorem ldyZp (z : Byte) : Statement (.ldyZp z) :=
  ⟨⟨0xA4, .ldy, .zp, 3, .byte .ldyZp⟩, (rfl : lookup 0xA4 = _), rfl, rfl, rfl,
    fun _ => rfl⟩
theorem ldyAbs (a : Word) : Statement (.ldyAbs a) :=
  ⟨⟨0xAC, .ldy, .abs, 4, .word .ldyAbs⟩, (rfl : lookup 0xAC = _), rfl, rfl, rfl,
    fun _ => by simp [Row.build, Instr.form, Form.operandBytes, MemForm.operandBytes]⟩
theorem ldyZpx (z : Byte) : Statement (.ldyZpx z) :=
  ⟨⟨0xB4, .ldy, .zpx, 4, .byte .ldyZpx⟩, (rfl : lookup 0xB4 = _), rfl, rfl, rfl,
    fun _ => rfl⟩
theorem ldyAbx (a : Word) : Statement (.ldyAbx a) :=
  ⟨⟨0xBC, .ldy, .abx, 4, .word .ldyAbx⟩, (rfl : lookup 0xBC = _), rfl, rfl, rfl,
    fun _ => by simp [Row.build, Instr.form, Form.operandBytes, MemForm.operandBytes]⟩
theorem staIzx (z : Byte) : Statement (.staIzx z) :=
  ⟨⟨0x81, .sta, .izx, 6, .byte .staIzx⟩, (rfl : lookup 0x81 = _), rfl, rfl, rfl,
    fun _ => rfl⟩
theorem staZp (z : Byte) : Statement (.staZp z) :=
  ⟨⟨0x85, .sta, .zp, 3, .byte .staZp⟩, (rfl : lookup 0x85 = _), rfl, rfl, rfl,
    fun _ => rfl⟩
theorem staAbs (a : Word) : Statement (.staAbs a) :=
  ⟨⟨0x8D, .sta, .abs, 4, .word .staAbs⟩, (rfl : lookup 0x8D = _), rfl, rfl, rfl,
    fun _ => by simp [Row.build, Instr.form, Form.operandBytes, MemForm.operandBytes]⟩
theorem staIzy (z : Byte) : Statement (.staIzy z) :=
  ⟨⟨0x91, .sta, .izy, 6, .byte .staIzy⟩, (rfl : lookup 0x91 = _), rfl, rfl, rfl,
    fun _ => rfl⟩
theorem staZpx (z : Byte) : Statement (.staZpx z) :=
  ⟨⟨0x95, .sta, .zpx, 4, .byte .staZpx⟩, (rfl : lookup 0x95 = _), rfl, rfl, rfl,
    fun _ => rfl⟩
theorem staAby (a : Word) : Statement (.staAby a) :=
  ⟨⟨0x99, .sta, .aby, 5, .word .staAby⟩, (rfl : lookup 0x99 = _), rfl, rfl, rfl,
    fun _ => by simp [Row.build, Instr.form, Form.operandBytes, MemForm.operandBytes]⟩
theorem staAbx (a : Word) : Statement (.staAbx a) :=
  ⟨⟨0x9D, .sta, .abx, 5, .word .staAbx⟩, (rfl : lookup 0x9D = _), rfl, rfl, rfl,
    fun _ => by simp [Row.build, Instr.form, Form.operandBytes, MemForm.operandBytes]⟩
theorem stxZp (z : Byte) : Statement (.stxZp z) :=
  ⟨⟨0x86, .stx, .zp, 3, .byte .stxZp⟩, (rfl : lookup 0x86 = _), rfl, rfl, rfl,
    fun _ => rfl⟩
theorem stxAbs (a : Word) : Statement (.stxAbs a) :=
  ⟨⟨0x8E, .stx, .abs, 4, .word .stxAbs⟩, (rfl : lookup 0x8E = _), rfl, rfl, rfl,
    fun _ => by simp [Row.build, Instr.form, Form.operandBytes, MemForm.operandBytes]⟩
theorem stxZpy (z : Byte) : Statement (.stxZpy z) :=
  ⟨⟨0x96, .stx, .zpy, 4, .byte .stxZpy⟩, (rfl : lookup 0x96 = _), rfl, rfl, rfl,
    fun _ => rfl⟩
theorem styZp (z : Byte) : Statement (.styZp z) :=
  ⟨⟨0x84, .sty, .zp, 3, .byte .styZp⟩, (rfl : lookup 0x84 = _), rfl, rfl, rfl,
    fun _ => rfl⟩
theorem styAbs (a : Word) : Statement (.styAbs a) :=
  ⟨⟨0x8C, .sty, .abs, 4, .word .styAbs⟩, (rfl : lookup 0x8C = _), rfl, rfl, rfl,
    fun _ => by simp [Row.build, Instr.form, Form.operandBytes, MemForm.operandBytes]⟩
theorem styZpx (z : Byte) : Statement (.styZpx z) :=
  ⟨⟨0x94, .sty, .zpx, 4, .byte .styZpx⟩, (rfl : lookup 0x94 = _), rfl, rfl, rfl,
    fun _ => rfl⟩
theorem adcIzx (z : Byte) : Statement (.adcIzx z) :=
  ⟨⟨0x61, .adc, .izx, 6, .byte .adcIzx⟩, (rfl : lookup 0x61 = _), rfl, rfl, rfl,
    fun _ => rfl⟩
theorem adcZp (z : Byte) : Statement (.adcZp z) :=
  ⟨⟨0x65, .adc, .zp, 3, .byte .adcZp⟩, (rfl : lookup 0x65 = _), rfl, rfl, rfl,
    fun _ => rfl⟩
theorem adcImm (v : Byte) : Statement (.adcImm v) :=
  ⟨⟨0x69, .adc, .imm, 2, .byte .adcImm⟩, (rfl : lookup 0x69 = _), rfl, rfl, rfl,
    fun _ => rfl⟩
theorem adcAbs (a : Word) : Statement (.adcAbs a) :=
  ⟨⟨0x6D, .adc, .abs, 4, .word .adcAbs⟩, (rfl : lookup 0x6D = _), rfl, rfl, rfl,
    fun _ => by simp [Row.build, Instr.form, Form.operandBytes, MemForm.operandBytes]⟩
theorem adcIzy (z : Byte) : Statement (.adcIzy z) :=
  ⟨⟨0x71, .adc, .izy, 5, .byte .adcIzy⟩, (rfl : lookup 0x71 = _), rfl, rfl, rfl,
    fun _ => rfl⟩
theorem adcZpx (z : Byte) : Statement (.adcZpx z) :=
  ⟨⟨0x75, .adc, .zpx, 4, .byte .adcZpx⟩, (rfl : lookup 0x75 = _), rfl, rfl, rfl,
    fun _ => rfl⟩
theorem adcAby (a : Word) : Statement (.adcAby a) :=
  ⟨⟨0x79, .adc, .aby, 4, .word .adcAby⟩, (rfl : lookup 0x79 = _), rfl, rfl, rfl,
    fun _ => by simp [Row.build, Instr.form, Form.operandBytes, MemForm.operandBytes]⟩
theorem adcAbx (a : Word) : Statement (.adcAbx a) :=
  ⟨⟨0x7D, .adc, .abx, 4, .word .adcAbx⟩, (rfl : lookup 0x7D = _), rfl, rfl, rfl,
    fun _ => by simp [Row.build, Instr.form, Form.operandBytes, MemForm.operandBytes]⟩
theorem sbcIzx (z : Byte) : Statement (.sbcIzx z) :=
  ⟨⟨0xE1, .sbc, .izx, 6, .byte .sbcIzx⟩, (rfl : lookup 0xE1 = _), rfl, rfl, rfl,
    fun _ => rfl⟩
theorem sbcZp (z : Byte) : Statement (.sbcZp z) :=
  ⟨⟨0xE5, .sbc, .zp, 3, .byte .sbcZp⟩, (rfl : lookup 0xE5 = _), rfl, rfl, rfl,
    fun _ => rfl⟩
theorem sbcImm (v : Byte) : Statement (.sbcImm v) :=
  ⟨⟨0xE9, .sbc, .imm, 2, .byte .sbcImm⟩, (rfl : lookup 0xE9 = _), rfl, rfl, rfl,
    fun _ => rfl⟩
theorem sbcAbs (a : Word) : Statement (.sbcAbs a) :=
  ⟨⟨0xED, .sbc, .abs, 4, .word .sbcAbs⟩, (rfl : lookup 0xED = _), rfl, rfl, rfl,
    fun _ => by simp [Row.build, Instr.form, Form.operandBytes, MemForm.operandBytes]⟩
theorem sbcIzy (z : Byte) : Statement (.sbcIzy z) :=
  ⟨⟨0xF1, .sbc, .izy, 5, .byte .sbcIzy⟩, (rfl : lookup 0xF1 = _), rfl, rfl, rfl,
    fun _ => rfl⟩
theorem sbcZpx (z : Byte) : Statement (.sbcZpx z) :=
  ⟨⟨0xF5, .sbc, .zpx, 4, .byte .sbcZpx⟩, (rfl : lookup 0xF5 = _), rfl, rfl, rfl,
    fun _ => rfl⟩
theorem sbcAby (a : Word) : Statement (.sbcAby a) :=
  ⟨⟨0xF9, .sbc, .aby, 4, .word .sbcAby⟩, (rfl : lookup 0xF9 = _), rfl, rfl, rfl,
    fun _ => by simp [Row.build, Instr.form, Form.operandBytes, MemForm.operandBytes]⟩
theorem sbcAbx (a : Word) : Statement (.sbcAbx a) :=
  ⟨⟨0xFD, .sbc, .abx, 4, .word .sbcAbx⟩, (rfl : lookup 0xFD = _), rfl, rfl, rfl,
    fun _ => by simp [Row.build, Instr.form, Form.operandBytes, MemForm.operandBytes]⟩
theorem andIzx (z : Byte) : Statement (.andIzx z) :=
  ⟨⟨0x21, .and, .izx, 6, .byte .andIzx⟩, (rfl : lookup 0x21 = _), rfl, rfl, rfl,
    fun _ => rfl⟩
theorem andZp (z : Byte) : Statement (.andZp z) :=
  ⟨⟨0x25, .and, .zp, 3, .byte .andZp⟩, (rfl : lookup 0x25 = _), rfl, rfl, rfl,
    fun _ => rfl⟩
theorem andImm (v : Byte) : Statement (.andImm v) :=
  ⟨⟨0x29, .and, .imm, 2, .byte .andImm⟩, (rfl : lookup 0x29 = _), rfl, rfl, rfl,
    fun _ => rfl⟩
theorem andAbs (a : Word) : Statement (.andAbs a) :=
  ⟨⟨0x2D, .and, .abs, 4, .word .andAbs⟩, (rfl : lookup 0x2D = _), rfl, rfl, rfl,
    fun _ => by simp [Row.build, Instr.form, Form.operandBytes, MemForm.operandBytes]⟩
theorem andIzy (z : Byte) : Statement (.andIzy z) :=
  ⟨⟨0x31, .and, .izy, 5, .byte .andIzy⟩, (rfl : lookup 0x31 = _), rfl, rfl, rfl,
    fun _ => rfl⟩
theorem andZpx (z : Byte) : Statement (.andZpx z) :=
  ⟨⟨0x35, .and, .zpx, 4, .byte .andZpx⟩, (rfl : lookup 0x35 = _), rfl, rfl, rfl,
    fun _ => rfl⟩
theorem andAby (a : Word) : Statement (.andAby a) :=
  ⟨⟨0x39, .and, .aby, 4, .word .andAby⟩, (rfl : lookup 0x39 = _), rfl, rfl, rfl,
    fun _ => by simp [Row.build, Instr.form, Form.operandBytes, MemForm.operandBytes]⟩
theorem andAbx (a : Word) : Statement (.andAbx a) :=
  ⟨⟨0x3D, .and, .abx, 4, .word .andAbx⟩, (rfl : lookup 0x3D = _), rfl, rfl, rfl,
    fun _ => by simp [Row.build, Instr.form, Form.operandBytes, MemForm.operandBytes]⟩
theorem oraIzx (z : Byte) : Statement (.oraIzx z) :=
  ⟨⟨0x01, .ora, .izx, 6, .byte .oraIzx⟩, (rfl : lookup 0x01 = _), rfl, rfl, rfl,
    fun _ => rfl⟩
theorem oraZp (z : Byte) : Statement (.oraZp z) :=
  ⟨⟨0x05, .ora, .zp, 3, .byte .oraZp⟩, (rfl : lookup 0x05 = _), rfl, rfl, rfl,
    fun _ => rfl⟩
theorem oraImm (v : Byte) : Statement (.oraImm v) :=
  ⟨⟨0x09, .ora, .imm, 2, .byte .oraImm⟩, (rfl : lookup 0x09 = _), rfl, rfl, rfl,
    fun _ => rfl⟩
theorem oraAbs (a : Word) : Statement (.oraAbs a) :=
  ⟨⟨0x0D, .ora, .abs, 4, .word .oraAbs⟩, (rfl : lookup 0x0D = _), rfl, rfl, rfl,
    fun _ => by simp [Row.build, Instr.form, Form.operandBytes, MemForm.operandBytes]⟩
theorem oraIzy (z : Byte) : Statement (.oraIzy z) :=
  ⟨⟨0x11, .ora, .izy, 5, .byte .oraIzy⟩, (rfl : lookup 0x11 = _), rfl, rfl, rfl,
    fun _ => rfl⟩
theorem oraZpx (z : Byte) : Statement (.oraZpx z) :=
  ⟨⟨0x15, .ora, .zpx, 4, .byte .oraZpx⟩, (rfl : lookup 0x15 = _), rfl, rfl, rfl,
    fun _ => rfl⟩
theorem oraAby (a : Word) : Statement (.oraAby a) :=
  ⟨⟨0x19, .ora, .aby, 4, .word .oraAby⟩, (rfl : lookup 0x19 = _), rfl, rfl, rfl,
    fun _ => by simp [Row.build, Instr.form, Form.operandBytes, MemForm.operandBytes]⟩
theorem oraAbx (a : Word) : Statement (.oraAbx a) :=
  ⟨⟨0x1D, .ora, .abx, 4, .word .oraAbx⟩, (rfl : lookup 0x1D = _), rfl, rfl, rfl,
    fun _ => by simp [Row.build, Instr.form, Form.operandBytes, MemForm.operandBytes]⟩
theorem eorIzx (z : Byte) : Statement (.eorIzx z) :=
  ⟨⟨0x41, .eor, .izx, 6, .byte .eorIzx⟩, (rfl : lookup 0x41 = _), rfl, rfl, rfl,
    fun _ => rfl⟩
theorem eorZp (z : Byte) : Statement (.eorZp z) :=
  ⟨⟨0x45, .eor, .zp, 3, .byte .eorZp⟩, (rfl : lookup 0x45 = _), rfl, rfl, rfl,
    fun _ => rfl⟩
theorem eorImm (v : Byte) : Statement (.eorImm v) :=
  ⟨⟨0x49, .eor, .imm, 2, .byte .eorImm⟩, (rfl : lookup 0x49 = _), rfl, rfl, rfl,
    fun _ => rfl⟩
theorem eorAbs (a : Word) : Statement (.eorAbs a) :=
  ⟨⟨0x4D, .eor, .abs, 4, .word .eorAbs⟩, (rfl : lookup 0x4D = _), rfl, rfl, rfl,
    fun _ => by simp [Row.build, Instr.form, Form.operandBytes, MemForm.operandBytes]⟩
theorem eorIzy (z : Byte) : Statement (.eorIzy z) :=
  ⟨⟨0x51, .eor, .izy, 5, .byte .eorIzy⟩, (rfl : lookup 0x51 = _), rfl, rfl, rfl,
    fun _ => rfl⟩
theorem eorZpx (z : Byte) : Statement (.eorZpx z) :=
  ⟨⟨0x55, .eor, .zpx, 4, .byte .eorZpx⟩, (rfl : lookup 0x55 = _), rfl, rfl, rfl,
    fun _ => rfl⟩
theorem eorAby (a : Word) : Statement (.eorAby a) :=
  ⟨⟨0x59, .eor, .aby, 4, .word .eorAby⟩, (rfl : lookup 0x59 = _), rfl, rfl, rfl,
    fun _ => by simp [Row.build, Instr.form, Form.operandBytes, MemForm.operandBytes]⟩
theorem eorAbx (a : Word) : Statement (.eorAbx a) :=
  ⟨⟨0x5D, .eor, .abx, 4, .word .eorAbx⟩, (rfl : lookup 0x5D = _), rfl, rfl, rfl,
    fun _ => by simp [Row.build, Instr.form, Form.operandBytes, MemForm.operandBytes]⟩
theorem cmpIzx (z : Byte) : Statement (.cmpIzx z) :=
  ⟨⟨0xC1, .cmp, .izx, 6, .byte .cmpIzx⟩, (rfl : lookup 0xC1 = _), rfl, rfl, rfl,
    fun _ => rfl⟩
theorem cmpZp (z : Byte) : Statement (.cmpZp z) :=
  ⟨⟨0xC5, .cmp, .zp, 3, .byte .cmpZp⟩, (rfl : lookup 0xC5 = _), rfl, rfl, rfl,
    fun _ => rfl⟩
theorem cmpImm (v : Byte) : Statement (.cmpImm v) :=
  ⟨⟨0xC9, .cmp, .imm, 2, .byte .cmpImm⟩, (rfl : lookup 0xC9 = _), rfl, rfl, rfl,
    fun _ => rfl⟩
theorem cmpAbs (a : Word) : Statement (.cmpAbs a) :=
  ⟨⟨0xCD, .cmp, .abs, 4, .word .cmpAbs⟩, (rfl : lookup 0xCD = _), rfl, rfl, rfl,
    fun _ => by simp [Row.build, Instr.form, Form.operandBytes, MemForm.operandBytes]⟩
theorem cmpIzy (z : Byte) : Statement (.cmpIzy z) :=
  ⟨⟨0xD1, .cmp, .izy, 5, .byte .cmpIzy⟩, (rfl : lookup 0xD1 = _), rfl, rfl, rfl,
    fun _ => rfl⟩
theorem cmpZpx (z : Byte) : Statement (.cmpZpx z) :=
  ⟨⟨0xD5, .cmp, .zpx, 4, .byte .cmpZpx⟩, (rfl : lookup 0xD5 = _), rfl, rfl, rfl,
    fun _ => rfl⟩
theorem cmpAby (a : Word) : Statement (.cmpAby a) :=
  ⟨⟨0xD9, .cmp, .aby, 4, .word .cmpAby⟩, (rfl : lookup 0xD9 = _), rfl, rfl, rfl,
    fun _ => by simp [Row.build, Instr.form, Form.operandBytes, MemForm.operandBytes]⟩
theorem cmpAbx (a : Word) : Statement (.cmpAbx a) :=
  ⟨⟨0xDD, .cmp, .abx, 4, .word .cmpAbx⟩, (rfl : lookup 0xDD = _), rfl, rfl, rfl,
    fun _ => by simp [Row.build, Instr.form, Form.operandBytes, MemForm.operandBytes]⟩
theorem cpxImm (v : Byte) : Statement (.cpxImm v) :=
  ⟨⟨0xE0, .cpx, .imm, 2, .byte .cpxImm⟩, (rfl : lookup 0xE0 = _), rfl, rfl, rfl,
    fun _ => rfl⟩
theorem cpxZp (z : Byte) : Statement (.cpxZp z) :=
  ⟨⟨0xE4, .cpx, .zp, 3, .byte .cpxZp⟩, (rfl : lookup 0xE4 = _), rfl, rfl, rfl,
    fun _ => rfl⟩
theorem cpxAbs (a : Word) : Statement (.cpxAbs a) :=
  ⟨⟨0xEC, .cpx, .abs, 4, .word .cpxAbs⟩, (rfl : lookup 0xEC = _), rfl, rfl, rfl,
    fun _ => by simp [Row.build, Instr.form, Form.operandBytes, MemForm.operandBytes]⟩
theorem cpyImm (v : Byte) : Statement (.cpyImm v) :=
  ⟨⟨0xC0, .cpy, .imm, 2, .byte .cpyImm⟩, (rfl : lookup 0xC0 = _), rfl, rfl, rfl,
    fun _ => rfl⟩
theorem cpyZp (z : Byte) : Statement (.cpyZp z) :=
  ⟨⟨0xC4, .cpy, .zp, 3, .byte .cpyZp⟩, (rfl : lookup 0xC4 = _), rfl, rfl, rfl,
    fun _ => rfl⟩
theorem cpyAbs (a : Word) : Statement (.cpyAbs a) :=
  ⟨⟨0xCC, .cpy, .abs, 4, .word .cpyAbs⟩, (rfl : lookup 0xCC = _), rfl, rfl, rfl,
    fun _ => by simp [Row.build, Instr.form, Form.operandBytes, MemForm.operandBytes]⟩
theorem bitZp (z : Byte) : Statement (.bitZp z) :=
  ⟨⟨0x24, .bit, .zp, 3, .byte .bitZp⟩, (rfl : lookup 0x24 = _), rfl, rfl, rfl,
    fun _ => rfl⟩
theorem bitAbs (a : Word) : Statement (.bitAbs a) :=
  ⟨⟨0x2C, .bit, .abs, 4, .word .bitAbs⟩, (rfl : lookup 0x2C = _), rfl, rfl, rfl,
    fun _ => by simp [Row.build, Instr.form, Form.operandBytes, MemForm.operandBytes]⟩
theorem aslZp (z : Byte) : Statement (.aslZp z) :=
  ⟨⟨0x06, .asl, .zp, 5, .byte .aslZp⟩, (rfl : lookup 0x06 = _), rfl, rfl, rfl,
    fun _ => rfl⟩
theorem aslAcc : Statement (.aslAcc) :=
  ⟨⟨0x0A, .asl, .acc, 2, .none .aslAcc⟩, (rfl : lookup 0x0A = _), rfl, rfl, rfl,
    fun _ => rfl⟩
theorem aslAbs (a : Word) : Statement (.aslAbs a) :=
  ⟨⟨0x0E, .asl, .abs, 6, .word .aslAbs⟩, (rfl : lookup 0x0E = _), rfl, rfl, rfl,
    fun _ => by simp [Row.build, Instr.form, Form.operandBytes, MemForm.operandBytes]⟩
theorem aslZpx (z : Byte) : Statement (.aslZpx z) :=
  ⟨⟨0x16, .asl, .zpx, 6, .byte .aslZpx⟩, (rfl : lookup 0x16 = _), rfl, rfl, rfl,
    fun _ => rfl⟩
theorem aslAbx (a : Word) : Statement (.aslAbx a) :=
  ⟨⟨0x1E, .asl, .abx, 7, .word .aslAbx⟩, (rfl : lookup 0x1E = _), rfl, rfl, rfl,
    fun _ => by simp [Row.build, Instr.form, Form.operandBytes, MemForm.operandBytes]⟩
theorem lsrZp (z : Byte) : Statement (.lsrZp z) :=
  ⟨⟨0x46, .lsr, .zp, 5, .byte .lsrZp⟩, (rfl : lookup 0x46 = _), rfl, rfl, rfl,
    fun _ => rfl⟩
theorem lsrAcc : Statement (.lsrAcc) :=
  ⟨⟨0x4A, .lsr, .acc, 2, .none .lsrAcc⟩, (rfl : lookup 0x4A = _), rfl, rfl, rfl,
    fun _ => rfl⟩
theorem lsrAbs (a : Word) : Statement (.lsrAbs a) :=
  ⟨⟨0x4E, .lsr, .abs, 6, .word .lsrAbs⟩, (rfl : lookup 0x4E = _), rfl, rfl, rfl,
    fun _ => by simp [Row.build, Instr.form, Form.operandBytes, MemForm.operandBytes]⟩
theorem lsrZpx (z : Byte) : Statement (.lsrZpx z) :=
  ⟨⟨0x56, .lsr, .zpx, 6, .byte .lsrZpx⟩, (rfl : lookup 0x56 = _), rfl, rfl, rfl,
    fun _ => rfl⟩
theorem lsrAbx (a : Word) : Statement (.lsrAbx a) :=
  ⟨⟨0x5E, .lsr, .abx, 7, .word .lsrAbx⟩, (rfl : lookup 0x5E = _), rfl, rfl, rfl,
    fun _ => by simp [Row.build, Instr.form, Form.operandBytes, MemForm.operandBytes]⟩
theorem rolZp (z : Byte) : Statement (.rolZp z) :=
  ⟨⟨0x26, .rol, .zp, 5, .byte .rolZp⟩, (rfl : lookup 0x26 = _), rfl, rfl, rfl,
    fun _ => rfl⟩
theorem rolAcc : Statement (.rolAcc) :=
  ⟨⟨0x2A, .rol, .acc, 2, .none .rolAcc⟩, (rfl : lookup 0x2A = _), rfl, rfl, rfl,
    fun _ => rfl⟩
theorem rolAbs (a : Word) : Statement (.rolAbs a) :=
  ⟨⟨0x2E, .rol, .abs, 6, .word .rolAbs⟩, (rfl : lookup 0x2E = _), rfl, rfl, rfl,
    fun _ => by simp [Row.build, Instr.form, Form.operandBytes, MemForm.operandBytes]⟩
theorem rolZpx (z : Byte) : Statement (.rolZpx z) :=
  ⟨⟨0x36, .rol, .zpx, 6, .byte .rolZpx⟩, (rfl : lookup 0x36 = _), rfl, rfl, rfl,
    fun _ => rfl⟩
theorem rolAbx (a : Word) : Statement (.rolAbx a) :=
  ⟨⟨0x3E, .rol, .abx, 7, .word .rolAbx⟩, (rfl : lookup 0x3E = _), rfl, rfl, rfl,
    fun _ => by simp [Row.build, Instr.form, Form.operandBytes, MemForm.operandBytes]⟩
theorem rorZp (z : Byte) : Statement (.rorZp z) :=
  ⟨⟨0x66, .ror, .zp, 5, .byte .rorZp⟩, (rfl : lookup 0x66 = _), rfl, rfl, rfl,
    fun _ => rfl⟩
theorem rorAcc : Statement (.rorAcc) :=
  ⟨⟨0x6A, .ror, .acc, 2, .none .rorAcc⟩, (rfl : lookup 0x6A = _), rfl, rfl, rfl,
    fun _ => rfl⟩
theorem rorAbs (a : Word) : Statement (.rorAbs a) :=
  ⟨⟨0x6E, .ror, .abs, 6, .word .rorAbs⟩, (rfl : lookup 0x6E = _), rfl, rfl, rfl,
    fun _ => by simp [Row.build, Instr.form, Form.operandBytes, MemForm.operandBytes]⟩
theorem rorZpx (z : Byte) : Statement (.rorZpx z) :=
  ⟨⟨0x76, .ror, .zpx, 6, .byte .rorZpx⟩, (rfl : lookup 0x76 = _), rfl, rfl, rfl,
    fun _ => rfl⟩
theorem rorAbx (a : Word) : Statement (.rorAbx a) :=
  ⟨⟨0x7E, .ror, .abx, 7, .word .rorAbx⟩, (rfl : lookup 0x7E = _), rfl, rfl, rfl,
    fun _ => by simp [Row.build, Instr.form, Form.operandBytes, MemForm.operandBytes]⟩
theorem incZp (z : Byte) : Statement (.incZp z) :=
  ⟨⟨0xE6, .inc, .zp, 5, .byte .incZp⟩, (rfl : lookup 0xE6 = _), rfl, rfl, rfl,
    fun _ => rfl⟩
theorem incAbs (a : Word) : Statement (.incAbs a) :=
  ⟨⟨0xEE, .inc, .abs, 6, .word .incAbs⟩, (rfl : lookup 0xEE = _), rfl, rfl, rfl,
    fun _ => by simp [Row.build, Instr.form, Form.operandBytes, MemForm.operandBytes]⟩
theorem incZpx (z : Byte) : Statement (.incZpx z) :=
  ⟨⟨0xF6, .inc, .zpx, 6, .byte .incZpx⟩, (rfl : lookup 0xF6 = _), rfl, rfl, rfl,
    fun _ => rfl⟩
theorem incAbx (a : Word) : Statement (.incAbx a) :=
  ⟨⟨0xFE, .inc, .abx, 7, .word .incAbx⟩, (rfl : lookup 0xFE = _), rfl, rfl, rfl,
    fun _ => by simp [Row.build, Instr.form, Form.operandBytes, MemForm.operandBytes]⟩
theorem decZp (z : Byte) : Statement (.decZp z) :=
  ⟨⟨0xC6, .dec, .zp, 5, .byte .decZp⟩, (rfl : lookup 0xC6 = _), rfl, rfl, rfl,
    fun _ => rfl⟩
theorem decAbs (a : Word) : Statement (.decAbs a) :=
  ⟨⟨0xCE, .dec, .abs, 6, .word .decAbs⟩, (rfl : lookup 0xCE = _), rfl, rfl, rfl,
    fun _ => by simp [Row.build, Instr.form, Form.operandBytes, MemForm.operandBytes]⟩
theorem decZpx (z : Byte) : Statement (.decZpx z) :=
  ⟨⟨0xD6, .dec, .zpx, 6, .byte .decZpx⟩, (rfl : lookup 0xD6 = _), rfl, rfl, rfl,
    fun _ => rfl⟩
theorem decAbx (a : Word) : Statement (.decAbx a) :=
  ⟨⟨0xDE, .dec, .abx, 7, .word .decAbx⟩, (rfl : lookup 0xDE = _), rfl, rfl, rfl,
    fun _ => by simp [Row.build, Instr.form, Form.operandBytes, MemForm.operandBytes]⟩
theorem inx : Statement (.inx) :=
  ⟨⟨0xE8, .inx, .imp, 2, .none .inx⟩, (rfl : lookup 0xE8 = _), rfl, rfl, rfl,
    fun _ => rfl⟩
theorem iny : Statement (.iny) :=
  ⟨⟨0xC8, .iny, .imp, 2, .none .iny⟩, (rfl : lookup 0xC8 = _), rfl, rfl, rfl,
    fun _ => rfl⟩
theorem dex : Statement (.dex) :=
  ⟨⟨0xCA, .dex, .imp, 2, .none .dex⟩, (rfl : lookup 0xCA = _), rfl, rfl, rfl,
    fun _ => rfl⟩
theorem dey : Statement (.dey) :=
  ⟨⟨0x88, .dey, .imp, 2, .none .dey⟩, (rfl : lookup 0x88 = _), rfl, rfl, rfl,
    fun _ => rfl⟩
theorem tax : Statement (.tax) :=
  ⟨⟨0xAA, .tax, .imp, 2, .none .tax⟩, (rfl : lookup 0xAA = _), rfl, rfl, rfl,
    fun _ => rfl⟩
theorem tay : Statement (.tay) :=
  ⟨⟨0xA8, .tay, .imp, 2, .none .tay⟩, (rfl : lookup 0xA8 = _), rfl, rfl, rfl,
    fun _ => rfl⟩
theorem txa : Statement (.txa) :=
  ⟨⟨0x8A, .txa, .imp, 2, .none .txa⟩, (rfl : lookup 0x8A = _), rfl, rfl, rfl,
    fun _ => rfl⟩
theorem tya : Statement (.tya) :=
  ⟨⟨0x98, .tya, .imp, 2, .none .tya⟩, (rfl : lookup 0x98 = _), rfl, rfl, rfl,
    fun _ => rfl⟩
theorem tsx : Statement (.tsx) :=
  ⟨⟨0xBA, .tsx, .imp, 2, .none .tsx⟩, (rfl : lookup 0xBA = _), rfl, rfl, rfl,
    fun _ => rfl⟩
theorem txs : Statement (.txs) :=
  ⟨⟨0x9A, .txs, .imp, 2, .none .txs⟩, (rfl : lookup 0x9A = _), rfl, rfl, rfl,
    fun _ => rfl⟩
theorem pha : Statement (.pha) :=
  ⟨⟨0x48, .pha, .imp, 3, .none .pha⟩, (rfl : lookup 0x48 = _), rfl, rfl, rfl,
    fun _ => rfl⟩
theorem pla : Statement (.pla) :=
  ⟨⟨0x68, .pla, .imp, 4, .none .pla⟩, (rfl : lookup 0x68 = _), rfl, rfl, rfl,
    fun _ => rfl⟩
theorem php : Statement (.php) :=
  ⟨⟨0x08, .php, .imp, 3, .none .php⟩, (rfl : lookup 0x08 = _), rfl, rfl, rfl,
    fun _ => rfl⟩
theorem plp : Statement (.plp) :=
  ⟨⟨0x28, .plp, .imp, 4, .none .plp⟩, (rfl : lookup 0x28 = _), rfl, rfl, rfl,
    fun _ => rfl⟩
theorem clc : Statement (.clc) :=
  ⟨⟨0x18, .clc, .imp, 2, .none .clc⟩, (rfl : lookup 0x18 = _), rfl, rfl, rfl,
    fun _ => rfl⟩
theorem sec : Statement (.sec) :=
  ⟨⟨0x38, .sec, .imp, 2, .none .sec⟩, (rfl : lookup 0x38 = _), rfl, rfl, rfl,
    fun _ => rfl⟩
theorem cli : Statement (.cli) :=
  ⟨⟨0x58, .cli, .imp, 2, .none .cli⟩, (rfl : lookup 0x58 = _), rfl, rfl, rfl,
    fun _ => rfl⟩
theorem sei : Statement (.sei) :=
  ⟨⟨0x78, .sei, .imp, 2, .none .sei⟩, (rfl : lookup 0x78 = _), rfl, rfl, rfl,
    fun _ => rfl⟩
theorem clv : Statement (.clv) :=
  ⟨⟨0xB8, .clv, .imp, 2, .none .clv⟩, (rfl : lookup 0xB8 = _), rfl, rfl, rfl,
    fun _ => rfl⟩
theorem cld : Statement (.cld) :=
  ⟨⟨0xD8, .cld, .imp, 2, .none .cld⟩, (rfl : lookup 0xD8 = _), rfl, rfl, rfl,
    fun _ => rfl⟩
theorem sed : Statement (.sed) :=
  ⟨⟨0xF8, .sed, .imp, 2, .none .sed⟩, (rfl : lookup 0xF8 = _), rfl, rfl, rfl,
    fun _ => rfl⟩
theorem nop : Statement (.nop) :=
  ⟨⟨0xEA, .nop, .imp, 2, .none .nop⟩, (rfl : lookup 0xEA = _), rfl, rfl, rfl,
    fun _ => rfl⟩
theorem bpl (off : Byte) : Statement (.bpl off) :=
  ⟨⟨0x10, .bpl, .rel, 2, .byte .bpl⟩, (rfl : lookup 0x10 = _), rfl, rfl, rfl,
    fun _ => rfl⟩
theorem bmi (off : Byte) : Statement (.bmi off) :=
  ⟨⟨0x30, .bmi, .rel, 2, .byte .bmi⟩, (rfl : lookup 0x30 = _), rfl, rfl, rfl,
    fun _ => rfl⟩
theorem bvc (off : Byte) : Statement (.bvc off) :=
  ⟨⟨0x50, .bvc, .rel, 2, .byte .bvc⟩, (rfl : lookup 0x50 = _), rfl, rfl, rfl,
    fun _ => rfl⟩
theorem bvs (off : Byte) : Statement (.bvs off) :=
  ⟨⟨0x70, .bvs, .rel, 2, .byte .bvs⟩, (rfl : lookup 0x70 = _), rfl, rfl, rfl,
    fun _ => rfl⟩
theorem bcc (off : Byte) : Statement (.bcc off) :=
  ⟨⟨0x90, .bcc, .rel, 2, .byte .bcc⟩, (rfl : lookup 0x90 = _), rfl, rfl, rfl,
    fun _ => rfl⟩
theorem bcs (off : Byte) : Statement (.bcs off) :=
  ⟨⟨0xB0, .bcs, .rel, 2, .byte .bcs⟩, (rfl : lookup 0xB0 = _), rfl, rfl, rfl,
    fun _ => rfl⟩
theorem bne (off : Byte) : Statement (.bne off) :=
  ⟨⟨0xD0, .bne, .rel, 2, .byte .bne⟩, (rfl : lookup 0xD0 = _), rfl, rfl, rfl,
    fun _ => rfl⟩
theorem beq (off : Byte) : Statement (.beq off) :=
  ⟨⟨0xF0, .beq, .rel, 2, .byte .beq⟩, (rfl : lookup 0xF0 = _), rfl, rfl, rfl,
    fun _ => rfl⟩
theorem jmpAbs (a : Word) : Statement (.jmpAbs a) :=
  ⟨⟨0x4C, .jmp, .abs, 3, .word .jmpAbs⟩, (rfl : lookup 0x4C = _), rfl, rfl, rfl,
    fun _ => by simp [Row.build, Instr.form, Form.operandBytes, MemForm.operandBytes]⟩
theorem jmpInd (ptr : Word) : Statement (.jmpInd ptr) :=
  ⟨⟨0x6C, .jmp, .ind, 5, .word .jmpInd⟩, (rfl : lookup 0x6C = _), rfl, rfl, rfl,
    fun _ => by simp [Row.build, Instr.form, Form.operandBytes]⟩
theorem jsr (a : Word) : Statement (.jsr a) :=
  ⟨⟨0x20, .jsr, .abs, 6, .word .jsr⟩, (rfl : lookup 0x20 = _), rfl, rfl, rfl,
    fun _ => by simp [Row.build, Instr.form, Form.operandBytes, MemForm.operandBytes]⟩
theorem rts : Statement (.rts) :=
  ⟨⟨0x60, .rts, .imp, 6, .none .rts⟩, (rfl : lookup 0x60 = _), rfl, rfl, rfl,
    fun _ => rfl⟩
theorem brk : Statement (.brk) :=
  ⟨⟨0x00, .brk, .imp, 7, .none .brk⟩, (rfl : lookup 0x00 = _), rfl, rfl, rfl,
    fun _ => rfl⟩
theorem rti : Statement (.rti) :=
  ⟨⟨0x40, .rti, .imp, 6, .none .rti⟩, (rfl : lookup 0x40 = _), rfl, rfl, rfl,
    fun _ => rfl⟩

/-- The statement for every instruction. -/
theorem all (i : Instr) : Statement i := by
  cases i
  case ldaIzx z => exact ldaIzx z
  case ldaZp z => exact ldaZp z
  case ldaImm v => exact ldaImm v
  case ldaAbs a => exact ldaAbs a
  case ldaIzy z => exact ldaIzy z
  case ldaZpx z => exact ldaZpx z
  case ldaAby a => exact ldaAby a
  case ldaAbx a => exact ldaAbx a
  case ldxImm v => exact ldxImm v
  case ldxZp z => exact ldxZp z
  case ldxAbs a => exact ldxAbs a
  case ldxZpy z => exact ldxZpy z
  case ldxAby a => exact ldxAby a
  case ldyImm v => exact ldyImm v
  case ldyZp z => exact ldyZp z
  case ldyAbs a => exact ldyAbs a
  case ldyZpx z => exact ldyZpx z
  case ldyAbx a => exact ldyAbx a
  case staIzx z => exact staIzx z
  case staZp z => exact staZp z
  case staAbs a => exact staAbs a
  case staIzy z => exact staIzy z
  case staZpx z => exact staZpx z
  case staAby a => exact staAby a
  case staAbx a => exact staAbx a
  case stxZp z => exact stxZp z
  case stxAbs a => exact stxAbs a
  case stxZpy z => exact stxZpy z
  case styZp z => exact styZp z
  case styAbs a => exact styAbs a
  case styZpx z => exact styZpx z
  case adcIzx z => exact adcIzx z
  case adcZp z => exact adcZp z
  case adcImm v => exact adcImm v
  case adcAbs a => exact adcAbs a
  case adcIzy z => exact adcIzy z
  case adcZpx z => exact adcZpx z
  case adcAby a => exact adcAby a
  case adcAbx a => exact adcAbx a
  case sbcIzx z => exact sbcIzx z
  case sbcZp z => exact sbcZp z
  case sbcImm v => exact sbcImm v
  case sbcAbs a => exact sbcAbs a
  case sbcIzy z => exact sbcIzy z
  case sbcZpx z => exact sbcZpx z
  case sbcAby a => exact sbcAby a
  case sbcAbx a => exact sbcAbx a
  case andIzx z => exact andIzx z
  case andZp z => exact andZp z
  case andImm v => exact andImm v
  case andAbs a => exact andAbs a
  case andIzy z => exact andIzy z
  case andZpx z => exact andZpx z
  case andAby a => exact andAby a
  case andAbx a => exact andAbx a
  case oraIzx z => exact oraIzx z
  case oraZp z => exact oraZp z
  case oraImm v => exact oraImm v
  case oraAbs a => exact oraAbs a
  case oraIzy z => exact oraIzy z
  case oraZpx z => exact oraZpx z
  case oraAby a => exact oraAby a
  case oraAbx a => exact oraAbx a
  case eorIzx z => exact eorIzx z
  case eorZp z => exact eorZp z
  case eorImm v => exact eorImm v
  case eorAbs a => exact eorAbs a
  case eorIzy z => exact eorIzy z
  case eorZpx z => exact eorZpx z
  case eorAby a => exact eorAby a
  case eorAbx a => exact eorAbx a
  case cmpIzx z => exact cmpIzx z
  case cmpZp z => exact cmpZp z
  case cmpImm v => exact cmpImm v
  case cmpAbs a => exact cmpAbs a
  case cmpIzy z => exact cmpIzy z
  case cmpZpx z => exact cmpZpx z
  case cmpAby a => exact cmpAby a
  case cmpAbx a => exact cmpAbx a
  case cpxImm v => exact cpxImm v
  case cpxZp z => exact cpxZp z
  case cpxAbs a => exact cpxAbs a
  case cpyImm v => exact cpyImm v
  case cpyZp z => exact cpyZp z
  case cpyAbs a => exact cpyAbs a
  case bitZp z => exact bitZp z
  case bitAbs a => exact bitAbs a
  case aslZp z => exact aslZp z
  case aslAcc => exact aslAcc
  case aslAbs a => exact aslAbs a
  case aslZpx z => exact aslZpx z
  case aslAbx a => exact aslAbx a
  case lsrZp z => exact lsrZp z
  case lsrAcc => exact lsrAcc
  case lsrAbs a => exact lsrAbs a
  case lsrZpx z => exact lsrZpx z
  case lsrAbx a => exact lsrAbx a
  case rolZp z => exact rolZp z
  case rolAcc => exact rolAcc
  case rolAbs a => exact rolAbs a
  case rolZpx z => exact rolZpx z
  case rolAbx a => exact rolAbx a
  case rorZp z => exact rorZp z
  case rorAcc => exact rorAcc
  case rorAbs a => exact rorAbs a
  case rorZpx z => exact rorZpx z
  case rorAbx a => exact rorAbx a
  case incZp z => exact incZp z
  case incAbs a => exact incAbs a
  case incZpx z => exact incZpx z
  case incAbx a => exact incAbx a
  case decZp z => exact decZp z
  case decAbs a => exact decAbs a
  case decZpx z => exact decZpx z
  case decAbx a => exact decAbx a
  case inx => exact inx
  case iny => exact iny
  case dex => exact dex
  case dey => exact dey
  case tax => exact tax
  case tay => exact tay
  case txa => exact txa
  case tya => exact tya
  case tsx => exact tsx
  case txs => exact txs
  case pha => exact pha
  case pla => exact pla
  case php => exact php
  case plp => exact plp
  case clc => exact clc
  case sec => exact sec
  case cli => exact cli
  case sei => exact sei
  case clv => exact clv
  case cld => exact cld
  case sed => exact sed
  case nop => exact nop
  case bpl off => exact bpl off
  case bmi off => exact bmi off
  case bvc off => exact bvc off
  case bvs off => exact bvs off
  case bcc off => exact bcc off
  case bcs off => exact bcs off
  case bne off => exact bne off
  case beq off => exact beq off
  case jmpAbs a => exact jmpAbs a
  case jmpInd ptr => exact jmpInd ptr
  case jsr a => exact jsr a
  case rts => exact rts
  case brk => exact brk
  case rti => exact rti

end Sys2Proof.Laws.TableRow
end

