-- ==== Sys2Proof/Laws/Table.lean ====
section
/-! SUPPORT. The instruction table read from its rows: every instruction a row makes has the row's opcode, mnemonic, mode
and cycles, and its operand bytes are the ones the row's shape takes (30_encoding.md R81, R82). -/

namespace Sys2Proof

/-- An instruction is one a row makes of the given operand bytes. -/
structure Row.Makes (r : Row) (i : Instr) (bytes : List Byte) : Prop where
  opcode   : i.opcode = r.opcode
  mnemonic : i.mnemonic = r.mnemonic
  mode     : i.form.mode = r.mode
  cycles   : i.baseCycles = r.cycles
  operands : i.form.operandBytes = bytes
  length   : i.length = 1 + bytes.length

/-- Every instruction of a row is one the row makes. -/
def Row.Sound (r : Row) : Prop :=
  match r.shape with
  | .none i => r.Makes i []
  | .byte f => ∀ b, r.Makes (f b) [b]
  | .word f => ∀ w, r.Makes (f w) [loByte w, hiByte w]

theorem tableRow0_sound : ∀ r ∈ tableRow0, r.Sound := by
  simp only [tableRow0, List.forall_mem_cons, List.not_mem_nil, false_imp_iff, implies_true]
  refine ⟨?_, ?_, ?_, ?_, ?_, ?_, ?_, ?_, ?_, trivial⟩
  all_goals first | exact ⟨rfl, rfl, rfl, rfl, rfl, rfl⟩ | exact fun _ => ⟨rfl, rfl, rfl, rfl, rfl, rfl⟩

theorem tableRow1_sound : ∀ r ∈ tableRow1, r.Sound := by
  simp only [tableRow1, List.forall_mem_cons, List.not_mem_nil, false_imp_iff, implies_true]
  refine ⟨?_, ?_, ?_, ?_, ?_, ?_, ?_, ?_, trivial⟩
  all_goals first | exact ⟨rfl, rfl, rfl, rfl, rfl, rfl⟩ | exact fun _ => ⟨rfl, rfl, rfl, rfl, rfl, rfl⟩

theorem tableRow2_sound : ∀ r ∈ tableRow2, r.Sound := by
  simp only [tableRow2, List.forall_mem_cons, List.not_mem_nil, false_imp_iff, implies_true]
  refine ⟨?_, ?_, ?_, ?_, ?_, ?_, ?_, ?_, ?_, ?_, ?_, trivial⟩
  all_goals first | exact ⟨rfl, rfl, rfl, rfl, rfl, rfl⟩ | exact fun _ => ⟨rfl, rfl, rfl, rfl, rfl, rfl⟩

theorem tableRow3_sound : ∀ r ∈ tableRow3, r.Sound := by
  simp only [tableRow3, List.forall_mem_cons, List.not_mem_nil, false_imp_iff, implies_true]
  refine ⟨?_, ?_, ?_, ?_, ?_, ?_, ?_, ?_, trivial⟩
  all_goals first | exact ⟨rfl, rfl, rfl, rfl, rfl, rfl⟩ | exact fun _ => ⟨rfl, rfl, rfl, rfl, rfl, rfl⟩

theorem tableRow4_sound : ∀ r ∈ tableRow4, r.Sound := by
  simp only [tableRow4, List.forall_mem_cons, List.not_mem_nil, false_imp_iff, implies_true]
  refine ⟨?_, ?_, ?_, ?_, ?_, ?_, ?_, ?_, ?_, ?_, trivial⟩
  all_goals first | exact ⟨rfl, rfl, rfl, rfl, rfl, rfl⟩ | exact fun _ => ⟨rfl, rfl, rfl, rfl, rfl, rfl⟩

theorem tableRow5_sound : ∀ r ∈ tableRow5, r.Sound := by
  simp only [tableRow5, List.forall_mem_cons, List.not_mem_nil, false_imp_iff, implies_true]
  refine ⟨?_, ?_, ?_, ?_, ?_, ?_, ?_, ?_, trivial⟩
  all_goals first | exact ⟨rfl, rfl, rfl, rfl, rfl, rfl⟩ | exact fun _ => ⟨rfl, rfl, rfl, rfl, rfl, rfl⟩

theorem tableRow6_sound : ∀ r ∈ tableRow6, r.Sound := by
  simp only [tableRow6, List.forall_mem_cons, List.not_mem_nil, false_imp_iff, implies_true]
  refine ⟨?_, ?_, ?_, ?_, ?_, ?_, ?_, ?_, ?_, ?_, trivial⟩
  all_goals first | exact ⟨rfl, rfl, rfl, rfl, rfl, rfl⟩ | exact fun _ => ⟨rfl, rfl, rfl, rfl, rfl, rfl⟩

theorem tableRow7_sound : ∀ r ∈ tableRow7, r.Sound := by
  simp only [tableRow7, List.forall_mem_cons, List.not_mem_nil, false_imp_iff, implies_true]
  refine ⟨?_, ?_, ?_, ?_, ?_, ?_, ?_, ?_, trivial⟩
  all_goals first | exact ⟨rfl, rfl, rfl, rfl, rfl, rfl⟩ | exact fun _ => ⟨rfl, rfl, rfl, rfl, rfl, rfl⟩

theorem tableRow8_sound : ∀ r ∈ tableRow8, r.Sound := by
  simp only [tableRow8, List.forall_mem_cons, List.not_mem_nil, false_imp_iff, implies_true]
  refine ⟨?_, ?_, ?_, ?_, ?_, ?_, ?_, ?_, ?_, trivial⟩
  all_goals first | exact ⟨rfl, rfl, rfl, rfl, rfl, rfl⟩ | exact fun _ => ⟨rfl, rfl, rfl, rfl, rfl, rfl⟩

theorem tableRow9_sound : ∀ r ∈ tableRow9, r.Sound := by
  simp only [tableRow9, List.forall_mem_cons, List.not_mem_nil, false_imp_iff, implies_true]
  refine ⟨?_, ?_, ?_, ?_, ?_, ?_, ?_, ?_, ?_, trivial⟩
  all_goals first | exact ⟨rfl, rfl, rfl, rfl, rfl, rfl⟩ | exact fun _ => ⟨rfl, rfl, rfl, rfl, rfl, rfl⟩

theorem tableRowA_sound : ∀ r ∈ tableRowA, r.Sound := by
  simp only [tableRowA, List.forall_mem_cons, List.not_mem_nil, false_imp_iff, implies_true]
  refine ⟨?_, ?_, ?_, ?_, ?_, ?_, ?_, ?_, ?_, ?_, ?_, ?_, trivial⟩
  all_goals first | exact ⟨rfl, rfl, rfl, rfl, rfl, rfl⟩ | exact fun _ => ⟨rfl, rfl, rfl, rfl, rfl, rfl⟩

theorem tableRowB_sound : ∀ r ∈ tableRowB, r.Sound := by
  simp only [tableRowB, List.forall_mem_cons, List.not_mem_nil, false_imp_iff, implies_true]
  refine ⟨?_, ?_, ?_, ?_, ?_, ?_, ?_, ?_, ?_, ?_, ?_, trivial⟩
  all_goals first | exact ⟨rfl, rfl, rfl, rfl, rfl, rfl⟩ | exact fun _ => ⟨rfl, rfl, rfl, rfl, rfl, rfl⟩

theorem tableRowC_sound : ∀ r ∈ tableRowC, r.Sound := by
  simp only [tableRowC, List.forall_mem_cons, List.not_mem_nil, false_imp_iff, implies_true]
  refine ⟨?_, ?_, ?_, ?_, ?_, ?_, ?_, ?_, ?_, ?_, ?_, trivial⟩
  all_goals first | exact ⟨rfl, rfl, rfl, rfl, rfl, rfl⟩ | exact fun _ => ⟨rfl, rfl, rfl, rfl, rfl, rfl⟩

theorem tableRowD_sound : ∀ r ∈ tableRowD, r.Sound := by
  simp only [tableRowD, List.forall_mem_cons, List.not_mem_nil, false_imp_iff, implies_true]
  refine ⟨?_, ?_, ?_, ?_, ?_, ?_, ?_, ?_, trivial⟩
  all_goals first | exact ⟨rfl, rfl, rfl, rfl, rfl, rfl⟩ | exact fun _ => ⟨rfl, rfl, rfl, rfl, rfl, rfl⟩

theorem tableRowE_sound : ∀ r ∈ tableRowE, r.Sound := by
  simp only [tableRowE, List.forall_mem_cons, List.not_mem_nil, false_imp_iff, implies_true]
  refine ⟨?_, ?_, ?_, ?_, ?_, ?_, ?_, ?_, ?_, ?_, ?_, trivial⟩
  all_goals first | exact ⟨rfl, rfl, rfl, rfl, rfl, rfl⟩ | exact fun _ => ⟨rfl, rfl, rfl, rfl, rfl, rfl⟩

theorem tableRowF_sound : ∀ r ∈ tableRowF, r.Sound := by
  simp only [tableRowF, List.forall_mem_cons, List.not_mem_nil, false_imp_iff, implies_true]
  refine ⟨?_, ?_, ?_, ?_, ?_, ?_, ?_, ?_, trivial⟩
  all_goals first | exact ⟨rfl, rfl, rfl, rfl, rfl, rfl⟩ | exact fun _ => ⟨rfl, rfl, rfl, rfl, rfl, rfl⟩

/-- Every row of the table is sound. -/
theorem table_sound {r : Row} (h : r ∈ table) : r.Sound := by
  obtain ⟨k, hk, hr⟩ := List.mem_flatMap.mp h
  have hk : k < 16 := List.mem_range.mp hk
  interval_cases k
  · exact tableRow0_sound r hr
  · exact tableRow1_sound r hr
  · exact tableRow2_sound r hr
  · exact tableRow3_sound r hr
  · exact tableRow4_sound r hr
  · exact tableRow5_sound r hr
  · exact tableRow6_sound r hr
  · exact tableRow7_sound r hr
  · exact tableRow8_sound r hr
  · exact tableRow9_sound r hr
  · exact tableRowA_sound r hr
  · exact tableRowB_sound r hr
  · exact tableRowC_sound r hr
  · exact tableRowD_sound r hr
  · exact tableRowE_sound r hr
  · exact tableRowF_sound r hr

/-- What a mapped opcode's row makes of the bytes after the opcode is the instruction those bytes encode. -/
theorem Row.build_ok {r : Row} (h : r.Sound) {bytes rest : List Byte} {i : Instr} (hb : r.build bytes = .ok (i, rest)) :
    ∃ ops, r.Makes i ops ∧ bytes = ops ++ rest := by
  obtain ⟨op, m, mode, n, shape⟩ := r
  cases shape with
  | none j =>
    simp only [Row.build, Except.ok.injEq, Prod.mk.injEq] at hb
    exact ⟨[], hb.1 ▸ h, hb.2⟩
  | byte f =>
    match bytes, hb with
    | b :: bs, hb =>
      simp only [Row.build, Except.ok.injEq, Prod.mk.injEq] at hb
      exact ⟨[b], hb.1 ▸ h b, by simp [hb.2]⟩
  | word f =>
    match bytes, hb with
    | lo :: hi :: bs, hb =>
      simp only [Row.build, Except.ok.injEq, Prod.mk.injEq] at hb
      refine ⟨[lo, hi], ?_, by simp [hb.2]⟩
      have := h (joinBytes lo hi)
      simpa [hb.1] using this

end Sys2Proof
end

