-- ==== Sys2Proof/Laws/Fetch.lean ====
section
/-! SUPPORT. Fetching: what the reads at PC leave, and that a fetch either finds an unmapped opcode or gives the
instruction whose encoding the bytes are (40_dispatch.md R121 to R124, 30_encoding.md R100). -/

namespace Sys2Proof.Machine

theorem State.fetchByte_snd (s : State) :
    s.fetchByte.2 = { s with pc := s.pc + 1, ioReads := s.fetchByte.2.ioReads } := rfl

/-- Reading n bytes moves PC past them and counts the draws, and changes nothing else. -/
theorem State.fetchBytes_snd (s : State) (n : Nat) :
    (s.fetchBytes n).2 = { s with pc := s.pc + BitVec.ofNat 16 n, ioReads := (s.fetchBytes n).2.ioReads } := by
  induction n generalizing s with
  | zero => simp [State.fetchBytes]
  | succ n ih =>
    have h : (s.fetchBytes (n + 1)).2 = (s.fetchByte.2.fetchBytes n).2 := rfl
    rw [h, ih, State.fetchByte_snd]
    have : s.pc + 1 + BitVec.ofNat 16 n = s.pc + BitVec.ofNat 16 (n + 1) := by
      rw [BitVec.add_assoc, show (1 : Word) = BitVec.ofNat 16 1 from rfl, ← BitVec.ofNat_add, Nat.add_comm 1 n]
    simp only [this]

@[simp] theorem State.fetchBytes_length (s : State) (n : Nat) : (s.fetchBytes n).1.length = n := by
  induction n generalizing s with
  | zero => rfl
  | succ n ih => simp [State.fetchBytes, ih]

/-- Under `IO_MODEL = ram` the bytes read are those of memory. -/
theorem State.fetchBytes_ram {s : State} (h : s.params.ioModel = .ram) (n : Nat) :
    (s.fetchBytes n).1 = (List.range n).map (fun k => s.peek (s.pc + BitVec.ofNat 16 k)) ∧
      (s.fetchBytes n).2.ioReads = s.ioReads := by
  induction n generalizing s with
  | zero => exact ⟨rfl, rfl⟩
  | succ n ih =>
    have hb : s.fetchByte = (s.peek s.pc, { s with pc := s.pc + 1 }) := by
      simp [State.fetchByte, State.memRead_ram h]
    have h2 := ih (s := s.fetchByte.2) h
    refine ⟨?_, ?_⟩
    · have : (s.fetchBytes (n + 1)).1 = s.fetchByte.1 :: (s.fetchByte.2.fetchBytes n).1 := rfl
      rw [this, h2.1, List.range_succ_eq_map, List.map_cons, List.map_map, hb]
      simp only [BitVec.ofNat_eq_ofNat, BitVec.add_zero, List.cons.injEq, true_and]
      refine List.map_congr_left fun k _ => ?_
      have e : s.pc + 1 + BitVec.ofNat 16 k = s.pc + BitVec.ofNat 16 (k + 1) := by
        rw [BitVec.add_assoc, show (1 : Word) = BitVec.ofNat 16 1 from rfl, ← BitVec.ofNat_add, Nat.add_comm 1 k]
      show s.peek (s.pc + 1 + BitVec.ofNat 16 k) = s.peek (s.pc + BitVec.ofNat 16 (k + 1))
      rw [e]
    · have : (s.fetchBytes (n + 1)).2 = (s.fetchByte.2.fetchBytes n).2 := rfl
      rw [this, h2.2, hb]

/-- What is read depends on PC, memory, the parameters and the count of draws alone. -/
theorem State.fetchBytes_congr {s t : State} (h1 : t.pc = s.pc) (h2 : t.mem = s.mem) (h3 : t.params = s.params)
    (h4 : t.ioReads = s.ioReads) (n : Nat) :
    (t.fetchBytes n).1 = (s.fetchBytes n).1 ∧ (t.fetchBytes n).2.ioReads = (s.fetchBytes n).2.ioReads := by
  induction n generalizing s t with
  | zero => exact ⟨rfl, h4⟩
  | succ n ih =>
    have hb : t.fetchByte.1 = s.fetchByte.1 ∧ t.fetchByte.2.ioReads = s.fetchByte.2.ioReads := by
      simp [State.fetchByte, State.memRead, State.atDevice, State.peek, h1, h2, h3, h4]
    have := ih (s := s.fetchByte.2) (t := t.fetchByte.2) (by simp [State.fetchByte, h1]) h2 h3 hb.2
    exact ⟨congrArg₂ List.cons hb.1 this.1, this.2⟩

/-- A fetch finds an unmapped opcode, and has read that byte alone, or it gives an instruction: the bytes it read are
the instruction's encoding, and the cycles are the entry's. -/
theorem State.fetchInstr_cases (s : State) :
    (lookup s.fetchByte.1 = none ∧ s.fetchInstr = .unmapped s.fetchByte.1 s.fetchByte.2) ∨
      ∃ i : Instr, (s.fetchBytes i.length).1 = encode i ∧
        s.fetchInstr = .decoded i.baseCycles (encode i) i (s.fetchBytes i.length).2 := by
  cases h : lookup s.fetchByte.1 with
  | none => exact .inl ⟨rfl, by simp [State.fetchInstr, h]⟩
  | some r =>
    right
    obtain ⟨op, m, mode, n, shape⟩ := r
    have hs := table_sound (lookup_mem h)
    have ho := lookup_opcode h
    cases shape with
    | none i =>
      have hm : Row.Makes _ i [] := hs
      have e := hm.opcode.trans ho
      refine ⟨i, ?_, ?_⟩
      · rw [hm.length]; simp [State.fetchBytes, encode, hm.operands, e]
      · simp only [State.fetchInstr, h]
        simp [hm.length, hm.cycles, State.fetchBytes, encode, hm.operands, e]
    | byte f =>
      have hm : Row.Makes _ (f s.fetchByte.2.fetchByte.1) [s.fetchByte.2.fetchByte.1] := hs _
      have e := hm.opcode.trans ho
      refine ⟨f s.fetchByte.2.fetchByte.1, ?_, ?_⟩
      · rw [hm.length]; simp [State.fetchBytes, encode, hm.operands, e]
      · simp only [State.fetchInstr, h]
        simp [hm.length, hm.cycles, State.fetchBytes, encode, hm.operands, e]
    | word f =>
      let lo := s.fetchByte.2.fetchByte
      have hm : Row.Makes _ (f (joinBytes lo.1 lo.2.fetchByte.1)) [loByte _, hiByte _] := hs _
      have e := hm.opcode.trans ho
      refine ⟨f (joinBytes lo.1 lo.2.fetchByte.1), ?_, ?_⟩
      · rw [hm.length]; simp [State.fetchBytes, encode, hm.operands, e, lo]
      · simp only [State.fetchInstr, h]
        simp [hm.length, hm.cycles, State.fetchBytes, encode, hm.operands, e, lo]

/-- The first byte of an encoding the fetch gives is the opcode, and the table maps it to the instruction's mnemonic. -/
theorem State.fetched_mnemonic {s : State} {i : Instr} (h : (s.fetchBytes i.length).1 = encode i) :
    ∃ r, lookup (s.memRead s.pc).1 = some r ∧ r.mnemonic = i.mnemonic := by
  have hlen : i.length = i.form.operandBytes.length + 1 := by
    have := congrArg List.length h
    simpa [encode] using this
  have hop : s.fetchByte.1 = i.opcode := by
    rw [hlen] at h
    exact (List.cons.inj h).1
  obtain ⟨r, hr, -, hm, -⟩ := Laws.TableRow.all i
  exact ⟨r, by rw [show (s.memRead s.pc).1 = i.opcode from hop]; exact hr, hm⟩

/-- A fetch whose bytes are an instruction's encoding gives that instruction. -/
theorem State.fetchInstr_of_encode {s : State} {i : Instr} (h : (s.fetchBytes i.length).1 = encode i) :
    s.fetchInstr = .decoded i.baseCycles (encode i) i (s.fetchBytes i.length).2 := by
  have hlen : i.length = i.form.operandBytes.length + 1 := by
    have := congrArg List.length h
    simpa [encode] using this
  have hop : s.fetchByte.1 = i.opcode := by
    rw [hlen] at h
    exact (List.cons.inj h).1
  obtain ⟨r, hr, -, -, -, hb⟩ := Laws.TableRow.all i
  rcases s.fetchInstr_cases with ⟨hn, -⟩ | ⟨j, hj, hf⟩
  · rw [hop, hr] at hn; cases hn
  · have hopj : i.opcode = j.opcode := by
      have hl : j.length = j.form.operandBytes.length + 1 := by
        have := congrArg List.length hj
        simpa [encode] using this
      rw [hl] at hj
      rw [← hop]
      exact (List.cons.inj hj).1
    obtain ⟨q, hq, -, -, qm, qb⟩ := Laws.TableRow.all j
    rw [← hopj, hr] at hq
    obtain rfl : r = q := by simpa using hq
    have hl : j.length = i.length := by
      obtain ⟨o1, m1, -⟩ := Row.build_ok (table_sound (lookup_mem hr)) (hb [])
      obtain ⟨o2, m2, -⟩ := Row.build_ok (table_sound (lookup_mem hr)) (qb [])
      simp [Instr.length, m1.mode, m2.mode]
    have hij : encode i = encode j := by rw [← h, ← hj, hl]
    have : j = i := by
      have h1 := hb []
      have h2 := qb []
      have ho : i.form.operandBytes = j.form.operandBytes := (List.cons.inj hij).2
      rw [ho] at h1
      rw [h1] at h2
      cases h2
      rfl
    subst this
    exact hf

end Sys2Proof.Machine
end

