-- ==== Sys2Proof/Laws/HostOps.lean ====
section
/-! SUPPORT. The host's run, said once: before a load, one iteration of its loop, and the verifier that has stopped
(40_dispatch.md R131, 70_reset_and_hazards.md R293). -/

namespace Sys2Proof.Machine

theorem runUntil_loaded {pred : State → Bool} {fuel : Nat} {s : State} (h : s.loaded = true) :
    runUntil pred fuel s = runSteps pred fuel s := by
  simp [runUntil, h]

theorem runUntil_unloaded {pred : State → Bool} {fuel : Nat} {s : State} (h : s.loaded = false) :
    runUntil pred fuel s = .refused .notLoaded := by
  simp [runUntil, h]

/-- Everything one iteration of the loop can do. -/
theorem runSteps_cases (pred : State → Bool) (fuel : Nat) (s : State) :
    (∃ r, s.run = .halted r ∧ runSteps pred (fuel + 1) s = .halted r s) ∨
    (s.run = .running ∧ pred s = true ∧ runSteps pred (fuel + 1) s = .predicateMet s) ∨
    (s.run = .running ∧ pred s = false ∧ runSteps pred (fuel + 1) s =
      match step s with
      | .fault f => .fault f
      | .refused r => .refused r
      | .next t =>
        match t.verifyDone? with
        | some v => .verifyDone v t
        | none => runSteps pred fuel t) := by
  cases hr : s.run with
  | halted r => exact .inl ⟨r, rfl, by simp [runSteps, hr]⟩
  | running =>
    cases hp : pred s
    · exact .inr (.inr ⟨rfl, rfl, by simp only [runSteps, hr, hp]; rfl⟩)
    · exact .inr (.inl ⟨rfl, rfl, by simp [runSteps, hr, hp]⟩)

/-- A verifier that has stopped comparing is active, and its status says why. -/
theorem State.verifyDone?_some {t : State} {v : VerifyStatus} (h : t.verifyDone? = some v) :
    v ≠ .comparing ∧ ∃ w, t.verifier = some w ∧ w.status = v := by
  unfold State.verifyDone? at h
  split at h
  · cases h
  · rename_i w hw
    split at h <;> cases h <;> rename_i hs <;> exact ⟨by simp, w, hw, hs⟩

end Sys2Proof.Machine
end

