-- ==== Sys2Proof/Laws/Step.lean ====
section
/-! SUPPORT. What an instruction can do at all, and what a step can do at all, said once. -/

namespace Sys2Proof.Machine

/-- What every instruction that answers a next state keeps, whatever it is: the cycle count, the verifier, the session,
the parameters; the canonical form of memory; bits 5 and 4 of P where they hold what R28 says; and the run state, but
for the StackBoundary halt of the fault policy, which a push or pop that would wrap S brings, and which goes back to the
opcode address (R75). -/
structure ExecKeeps (m : Mnemonic) (a0 : Word) (s t : State) : Prop where
  cycles   : t.cycles = s.cycles
  verifier : t.verifier = s.verifier
  loaded   : t.loaded = s.loaded
  params   : t.params = s.params
  memWf    : Memory.wf s.mem → Memory.wf t.mem
  bit5     : s.p[5] = true → t.p[5] = true
  bit4     : s.p[4] = false → t.p[4] = false
  run      : t.run = s.run ∨ ∃ k, s.params.stackPolicy = .fault ∧ crossesBoundary k m s.sp ∧
    t = s.abandon k a0

theorem ExecKeeps.refl (m : Mnemonic) (a0 : Word) (s : State) : ExecKeeps m a0 s s :=
  ⟨rfl, rfl, rfl, rfl, id, id, id, .inl rfl⟩

theorem isCanonical_stackCell (k : Nat) : isCanonical (stackCell k).toNat = true := by
  rw [← canon_stackCell]; exact isCanonical_canon _

@[simp] theorem addFlags_bit5 (r : AluResult) (p : Byte) : (addFlags r p)[5] = p[5] := by simp [addFlags]
@[simp] theorem addFlags_bit4 (r : AluResult) (p : Byte) : (addFlags r p)[4] = p[4] := by simp [addFlags]
@[simp] theorem compareFlags_bit5 (r m p : Byte) : (compareFlags r m p)[5] = p[5] := by simp [compareFlags]
@[simp] theorem compareFlags_bit4 (r m p : Byte) : (compareFlags r m p)[4] = p[4] := by simp [compareFlags]
@[simp] theorem bitFlags_bit5 (a m p : Byte) : (bitFlags a m p)[5] = p[5] := by simp [bitFlags]
@[simp] theorem bitFlags_bit4 (a m p : Byte) : (bitFlags a m p)[4] = p[4] := by simp [bitFlags]
@[simp] theorem shiftFlags_bit5 (r : ShiftResult) (p : Byte) : (shiftFlags r p)[5] = p[5] := by simp [shiftFlags]
@[simp] theorem shiftFlags_bit4 (r : ShiftResult) (p : Byte) : (shiftFlags r p)[4] = p[4] := by simp [shiftFlags]

/-- Where the policy decides, and how far S is from the boundary. -/
theorem State.push_room (s : State) (n : Nat) :
    (s.params.stackPolicy = .wrap ∨ n ≤ s.sp.toNat) ∨ (s.params.stackPolicy = .fault ∧ s.sp.toNat < n) := by
  cases s.params.stackPolicy <;> simp; omega

theorem State.pop_room (s : State) (n : Nat) :
    (s.params.stackPolicy = .wrap ∨ s.sp.toNat + n ≤ 255) ∨
      (s.params.stackPolicy = .fault ∧ 255 < s.sp.toNat + n) := by
  cases s.params.stackPolicy <;> simp; omega

/-- A refused instruction is an ADC or an SBC with D = 1 under `DECIMAL_MODE = refuse`, and no instruction faults. -/
theorem exec_outcomes (i : Instr) (s : State) :
    (∃ t, exec i s = .next t) ∨
      (exec i s = .refused (.decimalArithmetic (s.opcodeAddr i.length)) ∧ s.refusesDecimal = true ∧
        (i.mnemonic = .adc ∨ i.mnemonic = .sbc)) := by
  have hw := Laws.instr_wf i
  have hlen : ∀ src, i.form.source? = some src → sourceLength src = i.length := by
    intro src h
    simp only [sourceLength, Instr.length, Form.source?_eq h]
  rw [exec_eq_execOf]
  revert hw hlen
  unfold Instr.wf
  generalize i.mnemonic = m
  generalize hf : i.form = f
  intro hw hlen
  have settle (a0 : Word) (r : Except StackKind State) : ∃ t, s.settle a0 r = .next t := by
    cases r <;> exact ⟨_, rfl⟩
  have pull (g : Byte → State → State) : ∃ t, pullOne g s = .next t := by
    unfold pullOne; simp only; split <;> exact settle _ _
  have ws (g : Source → Result) (h : ∀ src, ∃ t, g src = .next t) : ∃ t, withSource f g s = .next t := by
    unfold withSource; split; exacts [h _, ⟨_, rfl⟩]
  have wm (g : MemForm → Result) (h : ∀ e, ∃ t, g e = .next t) : ∃ t, withMem f g s = .next t := by
    unfold withMem; split; exacts [h _, ⟨_, rfl⟩]
  have wp (g : Place → Result) (h : ∀ e, ∃ t, g e = .next t) : ∃ t, withPlace f g s = .next t := by
    unfold withPlace; split; exacts [h _, ⟨_, rfl⟩]
  have wo (g : Byte → Result) (h : ∀ e, ∃ t, g e = .next t) : ∃ t, withOffset f g s = .next t := by
    unfold withOffset; split; exacts [h _, ⟨_, rfl⟩, ⟨_, rfl⟩, ⟨_, rfl⟩, ⟨_, rfl⟩, ⟨_, rfl⟩]
  cases m
  case adc | sbc =>
    obtain ⟨src, hs⟩ := source_of_wf hw (by simp)
    simp only [execOf, withSource, hs]
    cases hd : s.refusesDecimal
    · left; simp only [adc_eq src hd, sbc_eq src hd]; exact ⟨_, rfl⟩
    · right; simp [adc, sbc, hd, hlen src hs]
  all_goals left
  all_goals first
    | exact ⟨_, rfl⟩
    | exact settle _ _
    | exact pull fun v t => { t with a := v, p := setNZ v t.p }
    | exact pull fun v t => { t with p := pulledStatus v }
    | exact ws _ fun _ => ⟨_, rfl⟩
    | exact wm _ fun _ => ⟨_, rfl⟩
    | exact wp _ fun _ => ⟨_, rfl⟩
    | exact wo _ fun _ => ⟨_, rfl⟩

/-- Every instruction keeps what `ExecKeeps` lists. -/
theorem exec_keeps {i : Instr} {s t : State} (h : exec i s = .next t) : ExecKeeps i.mnemonic (s.opcodeAddr i.length) s t := by
  have hw := Laws.instr_wf i
  have hl1 : i.form.mode = .imp → i.length = 1 := fun h => by simp [Instr.length, h, Mode.operandBytes]
  have hl3 : i.form.mode = .abs → i.length = 3 := fun h => by simp [Instr.length, h, Mode.operandBytes]
  rw [exec_eq_execOf] at h
  revert hw h hl1 hl3
  unfold Instr.wf
  generalize i.mnemonic = m
  generalize i.form = f
  generalize i.length = n
  intro h hw hl1 hl3
  have mw (a : Word) (v : Byte) : Memory.wf s.mem → Memory.wf (s.memWrite a v).mem := fun hm => State.memWrite_wf hm a v
  have ws (k : Nat) (v : Byte) (mem : Memory) : Memory.wf mem → Memory.wf (Memory.write mem (stackCell k).toNat v) :=
    fun hm => Memory.wf_write hm (isCanonical_stackCell k) v
  -- the plain shapes
  have hp (q : Byte) (h5 : q[5] = s.p[5]) (h4 : q[4] = s.p[4]) :
      (s.p[5] = true → q[5] = true) ∧ (s.p[4] = false → q[4] = false) := ⟨fun e => h5 ▸ e, fun e => h4 ▸ e⟩
  have imp1 (hm : m.modes = [.imp]) : n = 1 := hl1 (by simpa [WellFormed, hm] using hw)
  cases m <;> simp only [execOf] at h
  case lda | ldx | ldy | and | ora | eor | cmp | cpx | cpy | bit =>
    obtain ⟨src, hs⟩ := source_of_wf hw (by simp)
    simp only [withSource, hs, lda_eq, ldx_eq, ldy_eq, logicA_eq, compareWith_eq, bitTest_eq,
      Host.Outcome.next.injEq] at h
    subst h
    exact ⟨rfl, rfl, rfl, rfl, id, by simp, by simp, .inl rfl⟩
  case adc | sbc =>
    obtain ⟨src, hs⟩ := source_of_wf hw (by simp)
    simp only [withSource, hs] at h
    cases hd : s.refusesDecimal
    · simp only [adc_eq src hd, sbc_eq src hd, Host.Outcome.next.injEq] at h
      subst h
      exact ⟨rfl, rfl, rfl, rfl, id, by simp, by simp, .inl rfl⟩
    · simp [adc, sbc, hd] at h
  case sta | stx | sty | inc | dec =>
    obtain ⟨e, he⟩ := memForm_of_wf hw (by simp)
    simp only [withMem, he, store_eq, modifyCell_eq, Host.Outcome.next.injEq] at h
    subst h
    exact ⟨rfl, rfl, rfl, rfl, mw _ _, by simp, by simp, .inl rfl⟩
  case asl | lsr | rol | ror =>
    obtain ⟨pl, hpl⟩ := place_of_wf hw (by simp)
    simp only [withPlace, hpl] at h
    cases pl with
    | acc =>
      simp only [shift_acc_eq, Host.Outcome.next.injEq] at h
      subst h
      exact ⟨rfl, rfl, rfl, rfl, id, by simp, by simp, .inl rfl⟩
    | mem e =>
      simp only [shift_mem_eq, Host.Outcome.next.injEq] at h
      subst h
      exact ⟨rfl, rfl, rfl, rfl, mw _ _, by simp, by simp, .inl rfl⟩
  case inx | iny | dex | dey | tax | tay | txa | tya | tsx | txs | clc | sec | cli | sei | clv | cld | sed | nop =>
    simp only [setX, setY, transferA, writeFlag, Host.Outcome.next.injEq] at h
    subst h
    exact ⟨rfl, rfl, rfl, rfl, id, by simp, by simp, .inl rfl⟩
  case bpl | bmi | bvc | bvs | bcc | bcs | bne | beq =>
    cases f <;> simp only [withOffset, branchIf, Host.Outcome.next.injEq] at h <;> subst h <;>
      exact ⟨rfl, rfl, rfl, rfl, id, id, id, .inl rfl⟩
  case jmp =>
    simp only [jumpTo, Host.Outcome.next.injEq] at h
    have e : (jumpTarget f s).2 = { s with ioReads := (jumpTarget f s).2.ioReads } := by
      cases f <;> first | rfl | exact effAddr_snd _ s | exact indirectTarget_snd _ s
    rw [e] at h
    subst h
    exact ⟨rfl, rfl, rfl, rfl, id, id, id, .inl rfl⟩
  case pha | php =>
    simp only [pushOne] at h
    obtain rfl := imp1 rfl
    rcases s.push_room 1 with hr | ⟨hp, hr⟩
    · simp only [State.push_next hr, State.settle, Host.Outcome.next.injEq] at h
      subst h
      exact ⟨rfl, rfl, rfl, rfl, ws _ _ _, id, id, .inl rfl⟩
    · simp only [State.push_fault hp hr, State.settle, Host.Outcome.next.injEq] at h
      subst h
      exact ⟨rfl, rfl, rfl, rfl, id, id, id, .inr ⟨_, hp, ⟨1, .inl ⟨rfl, by decide, hr⟩⟩, rfl⟩⟩
  case pla | plp =>
    simp only [pullOne] at h
    obtain rfl := imp1 rfl
    rcases s.pop_room 1 with hr | ⟨hp, hr⟩
    · simp only [State.pop_next hr, State.settle, Host.Outcome.next.injEq] at h
      subst h
      exact ⟨rfl, rfl, rfl, rfl, id, by simp, by simp, .inl rfl⟩
    · simp only [State.pop_fault hp hr, State.settle, Host.Outcome.next.injEq] at h
      subst h
      exact ⟨rfl, rfl, rfl, rfl, id, id, id, .inr ⟨_, hp, ⟨1, .inr ⟨rfl, by decide, hr⟩⟩, rfl⟩⟩
  case jsr =>
    obtain rfl : n = 3 := hl3 (by simpa [WellFormed, Mnemonic.modes] using hw)
    rcases s.push_room 2 with hr | ⟨hp, hr⟩
    · simp only [State.callSubroutine_next hr, State.settle, Host.Outcome.next.injEq] at h
      subst h
      exact ⟨rfl, rfl, rfl, rfl, fun hm => ws _ _ _ (ws _ _ _ hm), id, id, .inl rfl⟩
    · simp only [State.callSubroutine_fault hp hr, State.settle, Host.Outcome.next.injEq] at h
      subst h
      exact ⟨rfl, rfl, rfl, rfl, id, id, id, .inr ⟨_, hp, ⟨2, .inl ⟨rfl, by decide, hr⟩⟩, rfl⟩⟩
  case rts =>
    obtain rfl := imp1 rfl
    rcases s.pop_room 2 with hr | ⟨hp, hr⟩
    · simp only [State.returnFromSubroutine_next hr, State.settle, Host.Outcome.next.injEq] at h
      subst h
      exact ⟨rfl, rfl, rfl, rfl, id, id, id, .inl rfl⟩
    · simp only [State.returnFromSubroutine_fault hp hr, State.settle, Host.Outcome.next.injEq] at h
      subst h
      exact ⟨rfl, rfl, rfl, rfl, id, id, id, .inr ⟨_, hp, ⟨2, .inr ⟨rfl, by decide, hr⟩⟩, rfl⟩⟩
  case brk =>
    obtain rfl := imp1 rfl
    rcases s.push_room 3 with hr | ⟨hp, hr⟩
    · simp only [State.takeBreak_next hr, State.settle, Host.Outcome.next.injEq] at h
      subst h
      exact ⟨rfl, rfl, rfl, rfl, fun hm => ws _ _ _ (ws _ _ _ (ws _ _ _ hm)), by simp, by simp, .inl rfl⟩
    · simp only [State.takeBreak_fault hp hr, State.settle, Host.Outcome.next.injEq] at h
      subst h
      exact ⟨rfl, rfl, rfl, rfl, id, id, id, .inr ⟨_, hp, ⟨3, .inl ⟨rfl, by decide, hr⟩⟩, rfl⟩⟩
  case rti =>
    obtain rfl := imp1 rfl
    rcases s.pop_room 3 with hr | ⟨hp, hr⟩
    · simp only [State.returnFromBreak_next hr, State.settle, Host.Outcome.next.injEq] at h
      subst h
      exact ⟨rfl, rfl, rfl, rfl, id, by simp, by simp, .inl rfl⟩
    · simp only [State.returnFromBreak_fault hp hr, State.settle, Host.Outcome.next.injEq] at h
      subst h
      exact ⟨rfl, rfl, rfl, rfl, id, id, id, .inr ⟨_, hp, ⟨3, .inr ⟨rfl, by decide, hr⟩⟩, rfl⟩⟩

/-- The state a step hands the handler: PC past the instruction, no diagnostic yet, the draws of the fetch counted. -/
def State.atHandler (s : State) (n : Nat) : State :=
  { s with pc := s.pc + BitVec.ofNat 16 n, diags := [], ioReads := (s.fetchBytes n).2.ioReads }

theorem State.opcodeAddr_atHandler (s : State) (n : Nat) : (s.atHandler n).opcodeAddr n = s.pc := by
  simp [State.opcodeAddr, State.atHandler]

/-- The end of a step whose fetch gave an instruction (R121). -/
def stepOf (s : State) (i : Instr) : StepOutcome :=
  match exec i (s.atHandler i.length) with
  | .next t => finish (traceRecord s (encode i) i) i.baseCycles t
  | .fault f => .fault f
  | .refused r => .refused r

/-- Everything a step can do (R121, R128, R293). -/
theorem dispatchStep_cases (s : State) :
    (s.loaded = false ∧ dispatchStep s = .refused .notLoaded) ∨
    (s.loaded = true ∧ ∃ r, s.run = .halted r ∧ dispatchStep s = .halted r) ∨
    (s.loaded = true ∧ s.run = .running ∧ lookup (s.memRead s.pc).1 = none ∧
      dispatchStep s = .halt (.unmappedOpcode (s.memRead s.pc).1 s.pc)
        { s with
          pc := s.pc + 1, diags := [], ioReads := (s.memRead s.pc).2.ioReads
          run := .halted (.unmappedOpcode (s.memRead s.pc).1 s.pc) }) ∨
    (s.loaded = true ∧ s.run = .running ∧
      ∃ i : Instr, (s.fetchBytes i.length).1 = encode i ∧ dispatchStep s = stepOf s i) := by
  rcases Bool.eq_false_or_eq_true s.loaded with hl | hl
  swap
  · exact .inl ⟨hl, by unfold dispatchStep; rw [hl]; rfl⟩
  right
  cases hr : s.run with
  | halted r => exact .inl ⟨hl, r, rfl, by unfold dispatchStep; rw [hl, hr]; rfl⟩
  | running =>
    right
    have hd : dispatchStep s = runStep s := by unfold dispatchStep; rw [hl, hr]; rfl
    rw [hd]
    rcases State.fetchInstr_cases { s with diags := [] } with ⟨hn, hf⟩ | ⟨i, hb, hf⟩
    · refine .inl ⟨hl, rfl, hn, ?_⟩
      unfold runStep
      rw [hf]
      rfl
    · right
      have hc := State.fetchBytes_congr (s := s) (t := { s with diags := [] }) rfl rfl rfl rfl i.length
      refine ⟨hl, rfl, i, hc.1 ▸ hb, ?_⟩
      unfold runStep stepOf
      rw [hf, State.fetchBytes_snd]
      simp only [hc.2]
      rfl

/-- A step that fetches an instruction's encoding runs it (R121). -/
theorem dispatchStep_of_encode {s : State} {i : Instr} (hl : s.loaded = true) (hr : s.run = .running)
    (h : (s.fetchBytes i.length).1 = encode i) : dispatchStep s = stepOf s i := by
  have hd : dispatchStep s = runStep s := by unfold dispatchStep; rw [hl, hr]; rfl
  have hc := State.fetchBytes_congr (s := s) (t := { s with diags := [] }) rfl rfl rfl rfl i.length
  rw [hd]
  unfold runStep stepOf
  rw [State.fetchInstr_of_encode (hc.1.trans h), State.fetchBytes_snd]
  simp only [hc.2]
  rfl

/-- The two ends of a step whose handler answered (R121, R127). -/
theorem finish_next {record : TraceRecord} {n : Nat} {s t u : State} (h : (finish record n t).toOutcome s = .next u) :
    (t.run = .running ∧ u = { t with cycles := t.cycles + n }.feedRecord record) ∨
      (∃ r, t.run = .halted r ∧ u = t.feedHalt r) := by
  unfold finish at h
  split at h
  · rename_i hr
    simp only [StepOutcome.toOutcome, Host.Outcome.next.injEq] at h
    exact .inl ⟨hr, h.symm⟩
  · rename_i r hr
    simp only [StepOutcome.toOutcome, Host.Outcome.next.injEq] at h
    exact .inr ⟨r, hr, h.symm⟩

/-- Every way a step can answer a next state (R121, R123, R128). -/
theorem step_next_cases {s u : State} (h : step s = .next u) :
    (s.loaded = true ∧ (∃ r, s.run = .halted r) ∧ u = s) ∨
    (s.loaded = true ∧ s.run = .running ∧ lookup (s.memRead s.pc).1 = none ∧
      u = { s with
        pc := s.pc + 1, diags := [], ioReads := (s.memRead s.pc).2.ioReads
        run := .halted (.unmappedOpcode (s.memRead s.pc).1 s.pc) }.feedHalt
          (.unmappedOpcode (s.memRead s.pc).1 s.pc)) ∨
    (s.loaded = true ∧ s.run = .running ∧ ∃ (i : Instr) (t : State), (s.fetchBytes i.length).1 = encode i ∧
      exec i (s.atHandler i.length) = .next t ∧
      ((t.run = .running ∧ u = { t with cycles := t.cycles + i.baseCycles }.feedRecord (traceRecord s (encode i) i)) ∨
       (∃ r, t.run = .halted r ∧ u = t.feedHalt r))) := by
  unfold step at h
  rcases dispatchStep_cases s with ⟨h1, hd⟩ | ⟨h1, r, h2, hd⟩ | ⟨h1, h2, h3, hd⟩ | ⟨h1, h2, i, he, hd⟩ <;> rw [hd] at h
  · cases h
  · cases h; exact .inl ⟨h1, ⟨r, h2⟩, rfl⟩
  · refine .inr (.inl ⟨h1, h2, h3, ?_⟩)
    simp only [StepOutcome.toOutcome, Host.Outcome.next.injEq] at h
    exact h.symm
  · refine .inr (.inr ⟨h1, h2, i, ?_⟩)
    unfold stepOf at h
    split at h
    · rename_i t ht
      exact ⟨t, he, ht, finish_next h⟩
    · cases h
    · cases h

end Sys2Proof.Machine
end

