-- ==== Sys2Proof/Tests/Slice0.lean ====
section
/-! SUPPORT. The model's own tests: the smoke test of WellFormed, words written out from the spec's encodings, one step of
each instruction against the vectors of 95_test_vectors.md and the examples of files 41 to 47, and, for every statement
with hypotheses, a state and operands that meet them. -/

open Sys2Proof Sys2Proof.Machine

namespace Sys2Proof.Tests

/-! ## WellFormed: a pair the table has no row for is refused (30_encoding.md R84, R101) -/

theorem test_wf_refuses_store_immediate : WellFormed .sta (.imm 0x12) = false := by decide
theorem test_wf_refuses_jump_zero_page : WellFormed .jmp (.mem (.zp 0x10)) = false := by decide
theorem test_wf_refuses_bit_immediate : WellFormed .bit (.imm 0x01) = false := by decide
theorem test_wf_refuses_ldx_indexed_by_x : WellFormed .ldx (.mem (.zpx 0x10)) = false := by decide
theorem test_wf_refuses_inc_accumulator : WellFormed .inc .acc = false := by decide
theorem test_wf_refuses_branch_absolute : WellFormed .beq (.mem (.abs 0xC000)) = false := by decide
theorem test_wf_refuses_operand_on_nop : WellFormed .nop (.imm 0x00) = false := by decide
theorem test_wf_refuses_jsr_indirect : WellFormed .jsr (.ind 0x0200) = false := by decide
theorem test_wf_accepts_instruction : Instr.wf (.stxZpy 0x10) = true := by decide
theorem test_assemble_refuses_what_wf_refuses : assemble .sta (.imm 0x12) = none := by decide

/-! ## Decoding: words written out bit by bit from the encoding column of the opcode table, a 16-bit field low byte first -/

/-- What decoding gives, with the bytes left over. -/
def decoded (bytes : List Byte) : Option (Instr × List Byte) :=
  match decode bytes with
  | .ok r => some r
  | .error _ => none

theorem test_decode_load_store : decoded [0b10111101, 0xFF, 0x12] = some (.ldaAbx 0x12FF, []) ∧
    decoded [0b10110110, 0xFF] = some (.ldxZpy 0xFF, []) ∧
    decoded [0b10010001, 0x84] = some (.staIzy 0x84, []) := by decide
theorem test_decode_arith : decoded [0b11111001, 0x34, 0x12] = some (.sbcAby 0x1234, []) ∧
    decoded [0b01000001, 0x20] = some (.eorIzx 0x20, []) ∧
    decoded [0b00100100, 0x10] = some (.bitZp 0x10, []) := by decide
theorem test_decode_shift : decoded [0b00001010] = some (.aslAcc, []) ∧
    decoded [0b01111110, 0x00, 0x02] = some (.rorAbx 0x0200, []) ∧
    decoded [0b11001110, 0x00, 0x02] = some (.decAbs 0x0200, []) := by decide
theorem test_decode_transfer_stack : decoded [0b10111010] = some (.tsx, []) ∧
    decoded [0b00101000] = some (.plp, []) := by decide
theorem test_decode_flag_nop : decoded [0b10111000] = some (.clv, []) ∧
    decoded [0b11101010] = some (.nop, []) := by decide
theorem test_decode_branch : decoded [0b01110000, 0x80] = some (.bvs 0x80, []) := by decide
theorem test_decode_control : decoded [0b01101100, 0xFF, 0x02] = some (.jmpInd 0x02FF, []) ∧
    decoded [0b01000000] = some (.rti, []) ∧ decoded [0b00000000, 0xEA] = some (.brk, [0xEA]) := by decide
theorem test_decode_refuses_by_name : decode [0x02] = .error (.unmappedOpcode 0x02) ∧
    decode [0xAD, 0x34] = .error (.missingOperand 0xAD) ∧ decode [] = .error .noBytes := ⟨rfl, rfl, rfl⟩
/-- The host's numbering: bit 0 is the least significant bit of the first byte. -/
theorem test_decodeTableWord : decodeTableWord 24 0x1234AD = some (.ldaAbs 0x1234) ∧
    decodeTableWord 8 0x69 = some (.adcImm 0x00) ∧ decodeTableWord 8 0x02 = none := by decide

/-! ## One step, from the state after reset with an instruction at 0xC000 -/

/-- The reset state with bytes at 0xC000. -/
def code (bytes : List Byte) : State := State.reset.placeInstr bytes

/-- The same with bytes stored elsewhere too. -/
def poke (a : Word) (v : Byte) (s : State) : State := s.memWrite a v

/-- The same under other parameters. -/
def under (f : Params → Params) (s : State) : State := { s with params := f s.params }

def faultPolicy (p : Params) : Params := { p with stackPolicy := .fault }
def refuseDecimal (p : Params) : Params := { p with decimalMode := .refuse }
def deviceOracle (p : Params) : Params := { p with ioModel := .oracle }
def noPageWrap (p : Params) : Params := { p with jmpIndPageWrap := false }

/-- What most tests look at: A, X, Y, S, P and PC. -/
structure Regs where
  a : Byte
  x : Byte
  y : Byte
  sp : Byte
  p : Byte
  pc : Word
deriving DecidableEq, Repr

def regs (t : State) : Regs := ⟨t.a, t.x, t.y, t.sp, t.p, t.pc⟩

/-- What one step leaves, seen through `f`. -/
def after {α : Type} (f : State → α) (s : State) : Option α :=
  match step s with
  | .next t => some (f t)
  | .fault _ => none
  | .refused _ => none

-- V-LS, V-RES
theorem test_lda : after regs { code [0xA9, 0x00] with p := 0xA5 } = some ⟨0x00, 0x00, 0x00, 0xFD, 0x27, 0xC002⟩ ∧
    after regs (poke 0x0001 0x77 { code [0xBD, 0xFF, 0xFF] with x := 0x02 }) =
      some ⟨0x77, 0x02, 0x00, 0xFD, 0x24, 0xC003⟩ := by decide
theorem test_lda_indirect_pointers_wrap :
    after regs (poke 0x00FF 0x00 (poke 0x0000 0x04 (poke 0x0400 0x77 { code [0xA1, 0xFE] with x := 0x01 }))) =
      some ⟨0x77, 0x01, 0x00, 0xFD, 0x24, 0xC002⟩ ∧
    after regs (poke 0x00FF 0xFF (poke 0x0000 0x12 (poke 0x1300 0x77 { code [0xB1, 0xFF] with y := 0x01 }))) =
      some ⟨0x77, 0x00, 0x01, 0xFD, 0x24, 0xC002⟩ := by decide
theorem test_ldx : after regs { code [0xA2, 0x80] with p := 0x65 } = some ⟨0x00, 0x80, 0x00, 0xFD, 0xE5, 0xC002⟩ ∧
    after regs (poke 0x0001 0x77 { code [0xB6, 0xFF] with y := 0x02 }) =
      some ⟨0x00, 0x77, 0x02, 0xFD, 0x24, 0xC002⟩ := by decide
theorem test_ldy : after regs { code [0xA0, 0x7F] with p := 0xA6 } = some ⟨0x00, 0x00, 0x7F, 0xFD, 0x24, 0xC002⟩ ∧
    after regs { code [0xBC, 0x00, 0x03] with x := 0x05 } = some ⟨0x00, 0x05, 0x00, 0xFD, 0x26, 0xC003⟩ := by decide
theorem test_sta : after (fun t => (t.peek 0x0000, t.p)) { code [0x99, 0xFF, 0xFF] with a := 0x12, y := 0x01, p := 0xA4 } =
    some (0x12, 0xA4) ∧
    after (fun t => t.peek 0xC000) { code [0x8D, 0x00, 0xC0] with a := 0x12 } = some 0x12 := by decide
theorem test_stx : after (fun t => t.peek 0x0001) { code [0x96, 0xFF] with x := 0x3C, y := 0x02 } = some 0x3C := by
  decide
theorem test_sty : after (fun t => t.peek 0x3FF8) { code [0x8C, 0x00, 0x20] with y := 0x99 } = some 0x99 := by decide

-- V-ADC, V-LOG
theorem test_adc : after regs { code [0x69, 0x01] with a := 0x7F } = some ⟨0x80, 0x00, 0x00, 0xFD, 0xE4, 0xC002⟩ ∧
    after regs { code [0x69, 0x80] with a := 0x80 } = some ⟨0x00, 0x00, 0x00, 0xFD, 0x67, 0xC002⟩ := by decide
theorem test_adc_decimal : after regs { code [0x69, 0x01] with a := 0x09, p := 0x2C } =
      some ⟨0x0A, 0x00, 0x00, 0xFD, 0x2C, 0xC002⟩ ∧
    after regs (under refuseDecimal { code [0x69, 0x01] with a := 0x09, p := 0x2C }) = none ∧
    after regs (under refuseDecimal { code [0x69, 0x01] with a := 0x09 }) =
      some ⟨0x0A, 0x00, 0x00, 0xFD, 0x24, 0xC002⟩ := by decide
theorem test_sbc : after regs { code [0xE9, 0xB0] with a := 0x50, p := 0x25 } =
      some ⟨0xA0, 0x00, 0x00, 0xFD, 0xE4, 0xC002⟩ ∧
    after regs { code [0xE9, 0x03] with a := 0x05 } = some ⟨0x01, 0x00, 0x00, 0xFD, 0x25, 0xC002⟩ := by decide
theorem test_and : after regs { code [0x29, 0xF0] with a := 0xF0, p := 0x65 } =
    some ⟨0xF0, 0x00, 0x00, 0xFD, 0xE5, 0xC002⟩ := by decide
theorem test_ora : after regs { code [0x09, 0x80] with a := 0x01 } = some ⟨0x81, 0x00, 0x00, 0xFD, 0xA4, 0xC002⟩ := by
  decide
theorem test_eor : after regs { code [0x49, 0xFF] with a := 0xFF } = some ⟨0x00, 0x00, 0x00, 0xFD, 0x26, 0xC002⟩ := by
  decide
theorem test_cmp : after regs { code [0xC9, 0x80] with p := 0x65 } = some ⟨0x00, 0x00, 0x00, 0xFD, 0xE4, 0xC002⟩ ∧
    after regs { code [0xC9, 0x10] with a := 0x10 } = some ⟨0x10, 0x00, 0x00, 0xFD, 0x27, 0xC002⟩ := by decide
theorem test_cpx : after regs { code [0xE0, 0x00] with x := 0x80 } = some ⟨0x00, 0x80, 0x00, 0xFD, 0xA5, 0xC002⟩ := by
  decide
theorem test_cpy : after regs (code [0xC0, 0x01]) = some ⟨0x00, 0x00, 0x00, 0xFD, 0xA4, 0xC002⟩ := by decide
theorem test_bit : after regs (poke 0x0010 0xC0 { code [0x24, 0x10] with a := 0x01 }) =
      some ⟨0x01, 0x00, 0x00, 0xFD, 0xE6, 0xC002⟩ ∧
    after regs (poke 0x0200 0x3F { code [0x2C, 0x00, 0x02] with a := 0xFF, p := 0xE4 }) =
      some ⟨0xFF, 0x00, 0x00, 0xFD, 0x24, 0xC003⟩ := by decide

-- V-SHF
theorem test_asl : after regs { code [0x0A] with a := 0x80 } = some ⟨0x00, 0x00, 0x00, 0xFD, 0x27, 0xC001⟩ ∧
    after (fun t => (t.peek 0x0010, t.p)) (poke 0x0010 0x55 (code [0x06, 0x10])) = some (0xAA, 0xA4) := by decide
theorem test_lsr : after regs { code [0x4A] with a := 0xFF, p := 0xA4 } = some ⟨0x7F, 0x00, 0x00, 0xFD, 0x25, 0xC001⟩ := by
  decide
theorem test_rol : after regs { code [0x2A] with a := 0x80, p := 0x25 } = some ⟨0x01, 0x00, 0x00, 0xFD, 0x25, 0xC001⟩ ∧
    after (fun t => (t.peek 0x0011, t.p)) (poke 0x0011 0x7F { code [0x36, 0x10] with x := 0x01, p := 0x25 }) =
      some (0xFF, 0xA4) := by decide
theorem test_ror : after regs { code [0x6A] with a := 0x02, p := 0x25 } = some ⟨0x81, 0x00, 0x00, 0xFD, 0xA4, 0xC001⟩ ∧
    after (fun t => (t.peek 0x0201, t.p)) (poke 0x0201 0x01 { code [0x7E, 0x00, 0x02] with x := 0x01 }) =
      some (0x00, 0x27) := by decide
theorem test_inc_through_mirror : after (fun t => (t.peek 0x0010, t.p)) (poke 0x0010 0x41 (code [0xEE, 0x10, 0x08])) =
    some (0x42, 0x24) := by decide
theorem test_dec : after (fun t => (t.peek 0x0200, t.p)) (poke 0x0200 0x01 { code [0xCE, 0x00, 0x02] with p := 0x25 }) =
    some (0x00, 0x27) := by decide
theorem test_register_steps : after regs { code [0xE8] with x := 0xFF } = some ⟨0x00, 0x00, 0x00, 0xFD, 0x26, 0xC001⟩ ∧
    after regs { code [0xC8] with y := 0x7F } = some ⟨0x00, 0x00, 0x80, 0xFD, 0xA4, 0xC001⟩ ∧
    after regs (code [0xCA]) = some ⟨0x00, 0xFF, 0x00, 0xFD, 0xA4, 0xC001⟩ ∧
    after regs { code [0x88] with y := 0x01 } = some ⟨0x00, 0x00, 0x00, 0xFD, 0x26, 0xC001⟩ := by decide

-- V-TRS
theorem test_transfers : after regs { code [0xAA] with a := 0x80 } = some ⟨0x80, 0x80, 0x00, 0xFD, 0xA4, 0xC001⟩ ∧
    after regs (code [0xA8]) = some ⟨0x00, 0x00, 0x00, 0xFD, 0x26, 0xC001⟩ ∧
    after regs { code [0x8A] with x := 0x01, a := 0xFF } = some ⟨0x01, 0x01, 0x00, 0xFD, 0x24, 0xC001⟩ ∧
    after regs { code [0x98] with y := 0xFE } = some ⟨0xFE, 0x00, 0xFE, 0xFD, 0xA4, 0xC001⟩ := by decide
theorem test_transfers_of_s : after regs (code [0xBA]) = some ⟨0x00, 0xFD, 0x00, 0xFD, 0xA4, 0xC001⟩ ∧
    after regs { code [0x9A] with x := 0x80, p := 0x26 } = some ⟨0x00, 0x80, 0x00, 0x80, 0x26, 0xC001⟩ := by decide

-- V-STK
theorem test_pha : after (fun t => (t.peek 0x01FD, t.sp, t.diags)) { code [0x48] with a := 0x99 } =
      some (0x99, 0xFC, []) ∧
    after (fun t => (t.peek 0x0100, t.sp, t.diags)) { code [0x48] with a := 0x11, sp := 0x00 } =
      some (0x11, 0xFF, [⟨.push, 0xC000⟩]) := by decide
theorem test_pla : after regs (poke 0x01FD 0x00 { code [0x68] with sp := 0xFC, p := 0xA4 }) =
      some ⟨0x00, 0x00, 0x00, 0xFD, 0x26, 0xC001⟩ ∧
    after (fun t => (regs t, t.diags)) (poke 0x0100 0x42 { code [0x68] with sp := 0xFF }) =
      some (⟨0x42, 0x00, 0x00, 0x00, 0x24, 0xC001⟩, [⟨.pop, 0xC000⟩]) := by decide
theorem test_php : after (fun t => (t.peek 0x01FD, t.sp, t.p)) { code [0x08] with p := 0xEF } = some (0xFF, 0xFC, 0xEF) := by
  decide
theorem test_plp : after regs (poke 0x01FD 0xFF { code [0x28] with sp := 0xFC }) =
      some ⟨0x00, 0x00, 0x00, 0xFD, 0xEF, 0xC001⟩ ∧
    after regs { code [0x28] with sp := 0xFC } = some ⟨0x00, 0x00, 0x00, 0xFD, 0x20, 0xC001⟩ := by decide
theorem test_fault_policy_undoes_brk :
    after (fun t => (regs t, t.run, t.peek 0x0101, t.cycles)) (under faultPolicy { code [0x00] with sp := 0x01 }) =
      some (⟨0x00, 0x00, 0x00, 0x01, 0x24, 0xC000⟩, .halted (.stackBoundary .push 0xC000), 0x00, 0) := by decide

-- V-FLG
theorem test_flag_instructions : after (·.p) { code [0x18] with p := 0xEF } = some 0xEE ∧
    after (·.p) (code [0x38]) = some 0x25 ∧ after (·.p) { code [0x58] with p := 0xEF } = some 0xEB ∧
    after (·.p) { code [0x78] with p := 0x20 } = some 0x24 ∧ after (·.p) { code [0xB8] with p := 0xEF } = some 0xAF ∧
    after (·.p) { code [0xD8] with p := 0xEF } = some 0xE7 ∧ after (·.p) (code [0xF8]) = some 0x2C := by decide
theorem test_nop : after (fun t => (regs t, t.cycles)) (code [0xEA]) =
    some (⟨0x00, 0x00, 0x00, 0xFD, 0x24, 0xC001⟩, 2) := by decide

-- V-BR, E4
theorem test_branches_taken : after (·.pc) (code [0x10, 0x10]) = some 0xC012 ∧
    after (·.pc) { code [0x30, 0x10] with p := 0xA4 } = some 0xC012 ∧ after (·.pc) (code [0x50, 0x10]) = some 0xC012 ∧
    after (·.pc) { code [0x70, 0x10] with p := 0x64 } = some 0xC012 ∧ after (·.pc) (code [0x90, 0x10]) = some 0xC012 ∧
    after (·.pc) { code [0xB0, 0x80] with p := 0x25 } = some 0xBF82 ∧ after (·.pc) (code [0xD0, 0x10]) = some 0xC012 ∧
    after (·.pc) { code [0xF0, 0x10] with p := 0x26 } = some 0xC012 := by decide
theorem test_branches_not_taken : after (·.pc) { code [0x10, 0x10] with p := 0xA4 } = some 0xC002 ∧
    after (·.pc) (code [0x30, 0x10]) = some 0xC002 ∧ after (·.pc) { code [0x50, 0x10] with p := 0x64 } = some 0xC002 ∧
    after (·.pc) (code [0x70, 0x10]) = some 0xC002 ∧ after (·.pc) { code [0x90, 0x10] with p := 0x25 } = some 0xC002 ∧
    after (·.pc) (code [0xB0, 0x10]) = some 0xC002 ∧ after (·.pc) { code [0xD0, 0x10] with p := 0x26 } = some 0xC002 ∧
    after (·.pc) { code [0xF0, 0x10] with p := 0xE5 } = some 0xC002 := by decide

-- V-CTL, E3
theorem test_jmp : after (·.pc) (code [0x4C, 0x34, 0x12]) = some 0x1234 := by decide
theorem test_jmp_indirect_page_end :
    let s := poke 0x02FF 0x34 (poke 0x0200 0x12 (poke 0x0300 0x56 (code [0x6C, 0xFF, 0x02])))
    after (·.pc) s = some 0x1234 ∧ after (·.pc) (under noPageWrap s) = some 0x5634 := by decide
theorem test_jsr : after (fun t => (t.pc, t.sp, t.peek 0x01FD, t.peek 0x01FC)) (code [0x20, 0x00, 0xD0]) =
    some (0xD000, 0xFB, 0xC0, 0x02) := by decide
theorem test_rts : after regs (poke 0x01FC 0xFF (poke 0x01FD 0xFF { code [0x60] with sp := 0xFB })) =
    some ⟨0x00, 0x00, 0x00, 0xFD, 0x24, 0x0000⟩ := by decide
theorem test_brk : after (fun t => (regs t, t.peek 0x01FD, t.peek 0x01FC, t.peek 0x01FB))
      (poke 0xFFFF 0xE0 { code [0x00] with p := 0xEB }) =
    some (⟨0x00, 0x00, 0x00, 0xFA, 0xEF, 0xE000⟩, 0xC0, 0x02, 0xFB) := by decide
theorem test_rti : after regs (poke 0x01FB 0xFF (poke 0x01FC 0x02 (poke 0x01FD 0xC0 { code [0x40] with sp := 0xFA }))) =
    some ⟨0x00, 0x00, 0x00, 0xFD, 0xEF, 0xC002⟩ := by decide

-- V-UNM, V-RST, V-DIS
theorem test_unmapped_opcode : after (fun t => (regs t, t.run, t.cycles)) { code [0x02] with a := 0x12, p := 0xE7 } =
    some (⟨0x12, 0x00, 0x00, 0xFD, 0xE7, 0xC001⟩, .halted (.unmappedOpcode 0x02 0xC000), 0) := by decide
theorem test_fetch_wraps_at_the_top : after regs (poke 0xFFFF 0xA9 (poke 0x0000 0x42 { code [] with pc := 0xFFFF })) =
    some ⟨0x42, 0x00, 0x00, 0xFD, 0x24, 0x0001⟩ := by decide
/-- What a load of an image leaves in the first and the last of the 8 register cells. -/
def loadedCells (image : List Byte) (origin : Word) : Option (Byte × Byte) :=
  match load image origin State.reset with
  | .ok t => some (t.peek 0x2000, t.peek 0x2007)
  | .error _ => none
theorem test_load_later_byte_stays :
    loadedCells ((List.range 16).map (BitVec.ofNat 8)) 0x2000 = some (0x08, 0x0F) := by decide
theorem test_load_rejects_past_the_top : loadedCells [0x01, 0x02] 0xFFFF = none ∧ loadedCells [0xAB] 0xFFFF ≠ none := by
  decide
theorem test_trace_line_branch :
    formatLine (traceRecord { State.reset with pc := 0x10FE, x := 0x01, y := 0x02 } [0x90, 0x80] (.bcc 0x80)) =
      "10FE  90 80     BCC $1080                       A:00 X:01 Y:02 P:24 SP:FD".toList := by decide
theorem test_trace_line_indirect :
    formatLine (traceRecord { State.reset with x := 0x01, y := 0x02 } [0xB1, 0x20] (.ldaIzy 0x20)) =
      "C000  B1 20     LDA ($20),Y                     A:00 X:01 Y:02 P:24 SP:FD".toList := by decide

-- V-VER
/-- The second line of V-VER's program. -/
def taxLine : Line := "C002  AA        TAX                             A:01 X:00 Y:00 P:24 SP:FD".toList
theorem test_verifier_removes_one_terminator :
    (Verifier.step ⟨[taxLine ++ ['\r', '\n']], 1, .comparing⟩ 73 taxLine) = ⟨[], 2, .comparing⟩ := by decide
theorem test_verifier_mismatch_at_column_53 :
    let altered := "C002  AA        TAX                             A:01 X:01 Y:00 P:24 SP:FD".toList
    (Verifier.step ⟨[altered], 1, .comparing⟩ 73 taxLine).status = .mismatch altered taxLine 1 ∧
      (Verifier.step ⟨[altered], 1, .comparing⟩ 48 taxLine) = ⟨[], 2, .comparing⟩ := by decide


/-! ## Witnesses: for each statement with hypotheses, states and operands that meet them, at the ends of each clause -/

theorem witness_EncodeOfDecodeIsTheBytes :
    decode [0x8D, 0xFF, 0x1F, 0xEA] = .ok (.staAbs 0x1FFF, [0xEA]) ∧ decode [0xEA] = .ok (.nop, []) := ⟨rfl, rfl⟩
theorem witness_UnmappedOpcodesHalt :
    let s := code [0x02]
    let u := poke 0xFFFF 0xFF { code [] with pc := 0xFFFF }
    (s.loaded = true ∧ s.run = .running ∧ (s.memRead s.pc).1 = 0x02 ∧ 0x02 ∈ Claims.unmappedOpcodes) ∧
      u.loaded = true ∧ u.run = .running ∧ (u.memRead u.pc).1 = 0xFF ∧ 0xFF ∈ Claims.unmappedOpcodes := by decide
theorem witness_OpcodeFixesModeAndLength : (Instr.staAbs 0x0000).opcode = (Instr.staAbs 0xFFFF).opcode := by decide
theorem witness_EachPairAssemblesToOneInstruction :
    assemble .stx (.mem (.zpy 0xFF)) = some (.stxZpy 0xFF) ∧ WellFormed .stx (.mem (.zpy 0xFF)) = true := by decide
theorem witness_CanonicalAddresses :
    canon 0x0000 = 0x0000 ∧ canon 0x07FF = 0x07FF ∧ canon 0x0800 = 0x0000 ∧ canon 0x1FFF = 0x07FF ∧
      canon 0x2000 = 0x2000 ∧ canon 0x3FFF = 0x2007 ∧ canon 0x4000 = 0x4000 ∧ canon 0xFFFF = 0xFFFF ∧
      isCanonical 0x07FF = true ∧ isCanonical 0x2007 = true ∧ isCanonical 0xFFFF = true ∧
      isCanonical 0x0800 = false ∧ isCanonical 0x2008 = false ∧ isCanonical 0x10000 = false := by decide
theorem witness_ReadAfterWrite : State.reset.params.ioModel = .ram ∧ canon 0x0000 = canon 0x1800 ∧
    (State.reset.memWrite 0x0000 0x42).peek 0x1800 = 0x42 ∧ (State.reset.memWrite 0x0000 0x42).peek 0x0001 = 0x00 := by
  decide
theorem witness_DeviceWindows : (under deviceOracle State.reset).params.ioModel = .oracle ∧
    canon 0x2000 = 0x2000 ∧ canon 0x3FFF = 0x2007 ∧ canon 0x4000 = 0x4000 ∧ canon 0x401F = 0x401F ∧
    (under deviceOracle State.reset).atDevice 0x4020 = false ∧ (under deviceOracle State.reset).atDevice 0x1FFF = false ∧
    ((under deviceOracle State.reset).memWrite 0x3FFF 0x05).ioWrites = [⟨0x2007, 0x05⟩] := by decide
theorem witness_LoadCopiesTheImageOrRejectsIt :
    (0xFFFF#16).toNat + [0x01#8, 0x02#8].length > 0x10000 ∧ (0xFFFF#16).toNat + [0xAB#8].length ≤ 0x10000 ∧
      canon (0x2000 + BitVec.ofNat 16 8) = canon (0x2000 + BitVec.ofNat 16 0) ∧
      canon (0x2000 + BitVec.ofNat 16 8) ≠ canon (0x2000 + BitVec.ofNat 16 15) := by decide

theorem inv_reset : State.reset.Inv := ⟨by decide, by decide, by decide, by decide, trivial⟩
theorem witness_ResetMeetsTheInvariant : Memory.wf [] ∧ Memory.wf [(0x07FF, 0x01), (0x2007, 0x80), (0xFFFF, 0xC0)] := by
  decide
theorem witness_HostOperationsKeepTheInvariant :
    State.reset.Inv ∧ ∃ t, load [0xA9, 0x01] 0xFFFE State.reset = .ok t := ⟨inv_reset, _, rfl⟩
/-- A halted loop meets the invariant too: an unmapped opcode, and an abandoned PHA. -/
theorem inv_halted :
    State.Inv { code [0x02] with pc := 0xC001, run := .halted (.unmappedOpcode 0x02 0xC000) } ∧
      State.Inv (under faultPolicy { code [0x48] with sp := 0x00, run := .halted (.stackBoundary .push 0xC000) }) :=
  ⟨⟨by decide, by decide, by decide, by decide, by decide, by decide⟩,
    ⟨by decide, by decide, by decide, by decide, by decide, by decide⟩⟩
theorem witness_StepKeepsTheInvariant : (code [0xA9, 0x00]).Inv ∧ ∃ t, step (code [0xA9, 0x00]) = .next t :=
  ⟨⟨by decide, by decide, by decide, by decide, trivial⟩, _, rfl⟩
theorem witness_StepRunsTheDecodedInstruction :
    let s := code [0x8D, 0x00, 0xC0]
    (s.loaded = true ∧ s.run = .running ∧ s.params.ioModel = .ram) ∧
      decode (s.fetchBytes (Instr.staAbs 0xC000).length).1 = .ok (.staAbs 0xC000, []) := ⟨by decide, rfl⟩
theorem witness_HaltedStepChangesNothing :
    State.reset.stop.loaded = true ∧ State.reset.stop.run = .halted .stopped ∧
      (State.unloaded Params.default).loaded = false := by decide
theorem witness_StepKeepsTheParameters :
    (code [0xEA]).params.ioModel = .ram ∧ ∃ t, step (code [0xEA]) = .next t := ⟨by decide, _, rfl⟩
/-- Each outcome of R120 is reached. -/
theorem witness_StepOutcomesAreTheListedOnes :
    (∃ r d t, dispatchStep (code [0xEA]) = .next r d t) ∧
      (∃ t, dispatchStep (code [0x02]) = .halt (.unmappedOpcode 0x02 0xC000) t) ∧
      (∃ t, dispatchStep (under faultPolicy { code [0x68] with sp := 0xFF }) = .halt (.stackBoundary .pop 0xC000) t) ∧
      dispatchStep State.reset.stop = .halted .stopped ∧
      dispatchStep (under refuseDecimal { code [0x69, 0x01] with p := 0x2C }) = .refused (.decimalArithmetic 0xC000) :=
  ⟨⟨_, _, _, rfl⟩, ⟨_, rfl⟩, ⟨_, rfl⟩, rfl, rfl⟩
theorem witness_CompletedStepRecordsAndCounts :
    (∃ r d t, dispatchStep (code [0xBD, 0x00, 0x02]) = .next r d t) ∧
      ∃ e t, dispatchStep (code [0x02]) = .halt e t := ⟨⟨_, _, _, rfl⟩, _, _, rfl⟩
theorem witness_StepReadsNoCounterNorVerifier :
    let s := code [0xEA]
    let u := (State.verify { s with cycles := 7 } [])
    let d := under refuseDecimal { code [0x69, 0x01] with p := 0x2C }
    (s.visible = u.visible ∧ ∃ t, step s = .next t) ∧
      d.visible = { d with cycles := 7 }.visible ∧ step d = .refused (.decimalArithmetic 0xC000) :=
  ⟨⟨rfl, _, rfl⟩, rfl, rfl⟩

theorem witness_LoadsTakeTheOperand : (Instr.ldaIzy 0xFF).mnemonic = .lda ∧ (Instr.ldxImm 0x00).mnemonic = .ldx ∧
    (Instr.ldyAbx 0xFFFF).mnemonic = .ldy := by decide
theorem witness_StoresWriteTheRegister : (Instr.staIzx 0xFF).mnemonic = .sta ∧ (Instr.stxZpy 0xFF).mnemonic = .stx ∧
    (Instr.styAbs 0x0000).mnemonic = .sty := by decide
/-- ADC and SBC complete with D clear under `refuse`, and with D set under `binary`. -/
theorem witness_AdcAddsWithCarry :
    let s := under refuseDecimal State.reset
    let d : State := { State.reset with p := 0x2C }
    (Instr.adcIzx 0xFF).mnemonic = .adc ∧ ¬ (s.params.decimalMode = .refuse ∧ s.flag .d = true) ∧
      s.params.decimalMode = .refuse ∧ ¬ (d.params.decimalMode = .refuse ∧ d.flag .d = true) ∧ d.flag .d = true := by
  decide
theorem witness_SbcSubtractsWithBorrow :
    let s := under refuseDecimal State.reset
    (Instr.sbcAby 0xFFFF).mnemonic = .sbc ∧ ¬ (s.params.decimalMode = .refuse ∧ s.flag .d = true) := by decide
theorem witness_OverflowAndCarryLaws :
    ((Instr.adcImm 0x80).form.source? = some (.imm 0x80) ∧ (Instr.sbcImm 0x80).form.source? = some (.imm 0x80)) ∧
      (∃ t, exec (.adcImm 0x80) State.reset = .next t ∧ t.flag .v = false) ∧
      (∃ t, exec (.adcImm 0xFF) { State.reset with a := 0x80 } = .next t ∧ t.flag .v = true) ∧
      ∃ t, exec (.sbcImm 0x80) State.reset = .next t ∧ t.flag .v = false ∧ t.flag .c = false :=
  ⟨by decide, ⟨_, rfl, by decide⟩, ⟨_, rfl, by decide⟩, _, rfl, by decide⟩
theorem witness_OnlyDecimalArithmeticIsRefused :
    let s := under refuseDecimal { State.reset with p := 0x2C }
    (Instr.adcZp 0x00).mnemonic = .adc ∧ (Instr.sbcImm 0x00).mnemonic = .sbc ∧
      s.params.decimalMode = .refuse ∧ s.flag .d = true := by decide
theorem witness_LogicCombinesBitByBit : (Instr.andZpx 0xFF).mnemonic = .and ∧ (Instr.oraImm 0x00).mnemonic = .ora ∧
    (Instr.eorAbs 0x2000).mnemonic = .eor := by decide
theorem witness_ComparesWriteNZC : (Instr.cmpIzy 0xFF).mnemonic = .cmp ∧ (Instr.cpxImm 0x00).mnemonic = .cpx ∧
    (Instr.cpyAbs 0xFFFF).mnemonic = .cpy := by decide
theorem witness_BitTestsTheOperand : (Instr.bitZp 0x00).mnemonic = .bit ∧ (Instr.bitAbs 0xFFFF).mnemonic = .bit := by
  decide
theorem witness_ShiftsMoveOneBit : Instr.aslAcc.mnemonic = .asl ∧ (Instr.lsrAbx 0xFFFF).mnemonic = .lsr ∧
    (Instr.rolZp 0x00).mnemonic = .rol ∧ (Instr.rorZpx 0xFF).mnemonic = .ror := by decide
theorem witness_IncDecChangeTheCell : (Instr.incAbs 0x0810).mnemonic = .inc ∧ (Instr.decZpx 0xFF).mnemonic = .dec := by
  decide

/-- Under `fault`, the lowest S from which a push of 1, 2 and 3 bytes completes, and the highest for a pop. -/
def faultAt (sp : Byte) : State := under faultPolicy { State.reset with sp := sp }

theorem witness_PushesStoreAtTheStackTop :
    (State.reset.params.stackPolicy = .wrap ∧ 1 ≤ (faultAt 0x01).sp.toNat) ∧
      after regs ((faultAt 0x01).placeInstr [0x48]) = some ⟨0x00, 0x00, 0x00, 0x00, 0x24, 0xC001⟩ := by decide
theorem witness_PullsLoadTheStackTop :
    (State.reset.params.stackPolicy = .wrap ∧ (faultAt 0xFE).sp.toNat + 1 ≤ 255) ∧
      after regs ((faultAt 0xFE).placeInstr [0x68]) = some ⟨0x00, 0x00, 0x00, 0xFF, 0x26, 0xC001⟩ := by decide
theorem witness_JsrPushesTheReturnAddress :
    2 ≤ (faultAt 0x02).sp.toNat ∧ after (fun t => (t.sp, t.run)) ((faultAt 0x02).placeInstr [0x20, 0x00, 0xD0]) =
      some (0x00, .running) := by decide
theorem witness_RtsReturns :
    (faultAt 0xFD).sp.toNat + 2 ≤ 255 ∧ after (fun t => (t.sp, t.run)) ((faultAt 0xFD).placeInstr [0x60]) =
      some (0xFF, .running) := by decide
theorem witness_BrkTakesTheVector :
    3 ≤ (faultAt 0x03).sp.toNat ∧ after (fun t => (t.sp, t.run)) ((faultAt 0x03).placeInstr [0x00]) =
      some (0x00, .running) := by decide
theorem witness_RtiRestoresStatusAndPc :
    (faultAt 0xFC).sp.toNat + 3 ≤ 255 ∧ after (fun t => (t.sp, t.run)) ((faultAt 0xFC).placeInstr [0x40]) =
      some (0xFF, .running) := by decide
/-- The other ends: the highest S at which a push of 1, 2 and 3 bytes is abandoned, and the lowest for a pop. -/
theorem witness_abandoned :
    (faultAt 0x00).params.stackPolicy = .fault ∧ (faultAt 0x00).sp.toNat < 1 ∧ (faultAt 0x01).sp.toNat < 2 ∧
      (faultAt 0x02).sp.toNat < 3 ∧ 255 < (faultAt 0xFF).sp.toNat + 1 ∧ 255 < (faultAt 0xFE).sp.toNat + 2 ∧
      255 < (faultAt 0xFD).sp.toNat + 3 := by decide
theorem witness_StackBoundaryHaltsTheStep :
    let s := (faultAt 0x02).placeInstr [0x00]
    let u := (faultAt 0xFE).placeInstr [0x60]
    (s.loaded = true ∧ s.run = .running ∧ s.params.stackPolicy = .fault ∧
        (s.fetchBytes Instr.brk.length).1 = encode .brk ∧ s.sp.toNat < 3) ∧
      u.loaded = true ∧ u.run = .running ∧ u.params.stackPolicy = .fault ∧
        (u.fetchBytes Instr.rts.length).1 = encode .rts ∧ 255 < u.sp.toNat + 2 := by decide

theorem witness_FlagInstructionsWriteOneFlag :
    ((Instr.clv, StatusFlag.v, false) : Instr × StatusFlag × Bool) ∈
      [(.clc, .c, false), (.sec, .c, true), (.cli, .i, false), (.sei, .i, true), (.clv, .v, false), (.cld, .d, false),
        (.sed, .d, true)] := by decide
theorem witness_NopOnlyMovesPc :
    let s := code [0xEA]
    s.loaded = true ∧ s.run = .running ∧ (s.memRead s.pc).1 = 0xEA ∧ s.pc = 0xC000 ∧ s.a = 0 ∧ s.x = 0 ∧ s.y = 0 ∧
      s.p = 0x24 ∧ s.sp = 0xFD := by decide
theorem witness_BranchesTestOneFlag :
    (((Instr.bpl 0x80).mnemonic, StatusFlag.n, false) : Mnemonic × StatusFlag × Bool) ∈
      [(.bpl, .n, false), (.bmi, .n, true), (.bvc, .v, false), (.bvs, .v, true), (.bcc, .c, false), (.bcs, .c, true),
        (.bne, .z, false), (.beq, .z, true)] := by decide
theorem witness_JumpsTakeTheTarget : (Instr.jmpInd 0xFFFF).mnemonic = .jmp ∧ (Instr.jmpAbs 0x0000).mnemonic = .jmp := by
  decide
theorem witness_RtsUndoesJsr :
    let s : State := { State.reset with pc := 0xC003, sp := 0x00 }
    ∃ t, s.params.stackPolicy = .wrap ∧ exec (.jsr 0xD000) s = .next t ∧ t.params = s.params ∧ t.sp = 0xFE :=
  ⟨_, rfl, rfl, rfl, by decide⟩
theorem witness_RtiUndoesBrk :
    let s : State := { faultAt 0x03 with pc := 0xC001, p := 0xEB }
    ∃ t, 3 ≤ s.sp.toNat ∧ exec .brk s = .next t ∧ t.params = s.params ∧ t.sp = 0x00 ∧ s.p[5] = true ∧ s.p[4] = false :=
  ⟨_, by decide, rfl, rfl, by decide, by decide, by decide⟩

/-- One instruction that changes each register. -/
theorem witness_RegistersHaveOnlyTheirWriters :
    (∃ t, exec (.ldaImm 0x01) State.reset = .next t ∧ t.a ≠ State.reset.a) ∧
      (∃ t, exec .tsx State.reset = .next t ∧ t.x ≠ State.reset.x) ∧
      (∃ t, exec .dey State.reset = .next t ∧ t.y ≠ State.reset.y) ∧
      ∃ t, exec .txs State.reset = .next t ∧ t.sp ≠ State.reset.sp :=
  ⟨⟨_, rfl, by decide⟩, ⟨_, rfl, by decide⟩, ⟨_, rfl, by decide⟩, _, rfl, by decide⟩
theorem witness_RegistersHaveOnlyTheirReaders :
    ¬ ((Instr.ldxZpy 0x00).mnemonic ∈ [.sta, .pha, .tax, .tay, .adc, .sbc, .and, .ora, .eor, .cmp, .bit] ∨
        ((Instr.ldxZpy 0x00).mnemonic ∈ [.asl, .lsr, .rol, .ror] ∧ (Instr.ldxZpy 0x00).form = .acc)) ∧
      ¬ ((Instr.ldxZpy 0x00).mnemonic ∈ [.stx, .txa, .txs, .cpx, .inx, .dex] ∨
        (Instr.ldxZpy 0x00).form.mode ∈ [.zpx, .abx, .izx]) ∧
      ¬ ((Instr.ldyZpx 0xFF).mnemonic ∈ [.sty, .tya, .cpy, .iny, .dey] ∨
        (Instr.ldyZpx 0xFF).form.mode ∈ [.zpy, .aby, .izy]) := by decide
theorem witness_FlagsHaveOnlyTheirWriters :
    (∃ t, exec (.ldaImm 0x80) State.reset = .next t ∧ t.flag .n ≠ State.reset.flag .n) ∧
      (∃ t, exec (.ldaImm 0x00) State.reset = .next t ∧ t.flag .z ≠ State.reset.flag .z) ∧
      (∃ t, exec .clv { State.reset with p := 0x64 } = .next t ∧ t.flag .v = false) ∧
      (∃ t, exec .sed State.reset = .next t ∧ t.flag .d ≠ State.reset.flag .d) ∧
      (∃ t, exec .cli State.reset = .next t ∧ t.flag .i ≠ State.reset.flag .i) ∧
      ∃ t, exec .sec State.reset = .next t ∧ t.flag .c ≠ State.reset.flag .c :=
  ⟨⟨_, rfl, by decide⟩, ⟨_, rfl, by decide⟩, ⟨_, rfl, by decide⟩, ⟨_, rfl, by decide⟩, ⟨_, rfl, by decide⟩,
    _, rfl, by decide⟩
theorem witness_MemoryHasOnlyItsWriters :
    (∃ t, exec (.incZp 0x10) State.reset = .next t ∧ t.peek 0x0810 ≠ State.reset.peek 0x0810) ∧
      ∃ t, exec (.rorZp 0x10) { State.reset with p := 0x25 } = .next t ∧ t.peek 0x0010 ≠ State.reset.peek 0x0010 :=
  ⟨⟨_, rfl, by decide⟩, _, rfl, by decide⟩
theorem witness_PcHasOnlyItsWriters :
    (∃ t, exec (.bne 0x80) State.reset = .next t ∧ t.pc ≠ State.reset.pc) ∧
      ∃ t, exec .pha (faultAt 0x00) = .next t ∧ t.pc ≠ (faultAt 0x00).pc :=
  ⟨⟨_, rfl, by decide⟩, _, rfl, by decide⟩
theorem witness_BreakAndUnusedBitsAreFixed :
    ∃ t, exec .plp { State.reset with p := 0x10 } = .next t ∧ t.p[5] = true ∧ t.p[4] = false := ⟨_, rfl, by decide⟩

/-- Each status of the verifier is reached. -/
theorem witness_VerifierReportsTheFirstDivergence :
    (Claims.verified 73 [['a'], ['b', '\n']] [['a'], ['c']]).status = .mismatch ['b', '\n'] ['c'] 1 ∧
      (Claims.verified 73 [['a']] [['a'], ['b']]).status = .passed 1 none ∧
      (Claims.verified 73 [['a'], ['b']] [['a']]) = ⟨[['b']], 1, .comparing⟩ := by decide
theorem witness_VerifierIsIsolatedAndInLockstep :
    (∃ r d t, dispatchStep ((code [0xEA]).verify [['x']]) = .next r d t) ∧
      (∃ e t, dispatchStep ((code [0x02]).verify [['x']]) = .halt e t) ∧
      ((code [0x02]).verify [['x']]).verifier = some ⟨[['x']], 0, .comparing⟩ :=
  ⟨⟨_, _, _, rfl⟩, ⟨_, _, rfl⟩, rfl⟩
/-- Each outcome of a run is reached; before a load it is refused though the predicate holds, and after a stop. -/
theorem witness_StopAndRunUntil :
    ((code [0xEA]).run = .running ∧ (code [0xEA]).stop.run = .halted .stopped ∧ (code [0xEA]).loaded = true) ∧
      (∃ t, runUntil (fun s => s.pc == 0xC001) 2 (code [0xEA]) = .predicateMet t) ∧
      (∃ t, runUntil (fun _ => false) 2 (code [0x02]) = .halted (.unmappedOpcode 0x02 0xC000) t) ∧
      (∃ t, runUntil (fun _ => false) 1 ((code [0xEA]).verify []) = .verifyDone (.passed 0 none) t) ∧
      (∃ t, runUntil (fun _ => false) 1 (code [0xEA]) = .unfinished t) ∧
      runUntil (fun _ => true) 0 (State.unloaded Params.default) = .refused .notLoaded ∧
      runUntil (fun _ => true) 1 (State.unloaded Params.default).stop = .refused .notLoaded ∧
      runUntil (fun _ => false) 1 (under refuseDecimal { code [0x69, 0x01] with p := 0x2C }) =
        .refused (.decimalArithmetic 0xC000) :=
  ⟨by decide, ⟨_, rfl⟩, ⟨_, rfl⟩, ⟨_, rfl⟩, ⟨_, rfl⟩, rfl, rfl, rfl⟩
theorem test_normalisation_and_truncation :
    normLine ['a', '\n', '\n'] = ['a', '\n'] ∧ normLine ['a', '\r', '\n'] = ['a'] ∧ normLine ['a', '\r'] = ['a', '\r'] ∧
      truncLine 2 ['a', 'b', 'c'] = ['a', 'b'] ∧ truncLine 2 ['a'] = ['a'] := by decide
theorem witness_TraceTextFollowsTheModeTable :
    hex4 0x0A5F = ['0', 'A', '5', 'F'] ∧ pad ['a'] 3 = ['a', ' ', ' '] ∧ pad ['a', 'b'] 1 = ['a', 'b'] := by decide
theorem test_disasm_texts : disasm (.ldaIzx 0x80) 0xC000 = "LDA ($80,X)".toList ∧
    disasm (.jmpInd 0x02FF) 0xC000 = "JMP ($02FF)".toList ∧ disasm .lsrAcc 0xC000 = "LSR A".toList ∧
    disasm (.bcs 0x10) 0xC000 = "BCS $C012".toList ∧ disasm (.bcs 0x80) 0x0010 = "BCS $FF92".toList := by decide

end Sys2Proof.Tests
end

section
/-! O19: what no instruction and no step changes. Under `IO_MODEL = ram` a read changes nothing, and a write records no
event; the stack is no device under either value of `IO_MODEL`. -/

open Sys2Proof Sys2Proof.Machine

namespace Sys2Proof.Proofs

/-- The answer of an instruction started in `s` has drawn from no device and recorded no device write (R55). -/
def KeepsDevices (s : State) : Result → Prop
  | .next t => t.ioReads = s.ioReads ∧ t.ioWrites = s.ioWrites
  | .fault _ | .refused _ => True

/-- Under `IO_MODEL = ram` a write records no event (R54). -/
theorem memWrite_ioWrites_ram {s : State} (h : s.params.ioModel = .ram) (a : Word) (v : Byte) :
    (s.memWrite a v).ioWrites = s.ioWrites := by
  simp [State.atDevice_ram h]

theorem jumpTarget_ram (f : Form) {s : State} (h : s.params.ioModel = .ram) : (jumpTarget f s).2 = s := by
  cases f with
  | mem m => exact effAddr_ram m h
  | ind ptr => exact indirectTarget_ram ptr h
  | imp | acc | imm _ | rel _ => rfl

/-! ## The operand forms: what the meaning keeps for every operand, it keeps for the form -/

section forms

variable {s : State} (f : Form)

theorem withSource_keepsDevices {g : Source → Result} (h : ∀ src, KeepsDevices s (g src)) :
    KeepsDevices s (withSource f g s) := by
  unfold withSource; split
  · exact h _
  · exact ⟨rfl, rfl⟩

theorem withMem_keepsDevices {g : MemForm → Result} (h : ∀ m, KeepsDevices s (g m)) :
    KeepsDevices s (withMem f g s) := by
  unfold withMem; split
  · exact h _
  · exact ⟨rfl, rfl⟩

theorem withPlace_keepsDevices {g : Place → Result} (h : ∀ pl, KeepsDevices s (g pl)) :
    KeepsDevices s (withPlace f g s) := by
  unfold withPlace; split
  · exact h _
  · exact ⟨rfl, rfl⟩

theorem branch_keepsDevices (cond : Bool) : KeepsDevices s (withOffset f (branchIf cond · s) s) := by
  cases f <;> exact ⟨rfl, rfl⟩

end forms

/-! ## The meanings that read and write memory, under `IO_MODEL = ram` -/

section ram

variable {s : State} (h : s.params.ioModel = .ram)
include h

theorem readSource_ioReads_ram (src : Source) : (readSource src s).2.ioReads = s.ioReads := by
  rw [readSource_ram src h]

theorem adc_keepsDevices (src : Source) : KeepsDevices s (adc src s) := by
  cases hd : s.refusesDecimal
  · rw [adc_eq src hd]; exact ⟨readSource_ioReads_ram h src, rfl⟩
  · simp [adc, hd, KeepsDevices]

theorem sbc_keepsDevices (src : Source) : KeepsDevices s (sbc src s) := by
  cases hd : s.refusesDecimal
  · rw [sbc_eq src hd]; exact ⟨readSource_ioReads_ram h src, rfl⟩
  · simp [sbc, hd, KeepsDevices]

theorem store_keepsDevices (m : MemForm) (v : Byte) : KeepsDevices s (store m v s) := by
  rw [store_eq]
  have hea : (effAddr m s).2.ioReads = s.ioReads := by rw [effAddr_ram m h]
  exact ⟨hea, memWrite_ioWrites_ram h _ _⟩

/-- The draws of resolving a cell and reading it. -/
theorem readCell_ioReads_ram (m : MemForm) :
    ((effAddr m s).2.memRead (effAddr m s).1).2.ioReads = s.ioReads := by
  rw [effAddr_ram m h, State.memRead_ram h]

theorem modifyCell_keepsDevices (op : Byte → Byte) (m : MemForm) : KeepsDevices s (modifyCell op m s) := by
  rw [modifyCell_eq]
  exact ⟨readCell_ioReads_ram h m, memWrite_ioWrites_ram h _ _⟩

theorem shift_keepsDevices (op : Byte → Bool → ShiftResult) (pl : Place) : KeepsDevices s (shift op pl s) := by
  cases pl with
  | acc => exact ⟨rfl, rfl⟩
  | mem m =>
    rw [shift_mem_eq]
    exact ⟨readCell_ioReads_ram h m, memWrite_ioWrites_ram h _ _⟩

theorem jump_keepsDevices (f : Form) : KeepsDevices s (jumpTo (jumpTarget f s)) := by
  unfold jumpTo
  rw [jumpTarget_ram f h]
  exact ⟨rfl, rfl⟩

end ram

/-! ## The stack instructions: each completes in the closed form of Laws/Stack, or is abandoned (R75) -/

theorem pushOne_keepsDevices (v : Byte) (s : State) : KeepsDevices s (pushOne v s) := by
  unfold pushOne
  rcases s.push_room 1 with hr | ⟨hp, hr⟩
  · simp only [State.push_next hr]; exact ⟨rfl, rfl⟩
  · simp only [State.push_fault hp hr]; exact ⟨rfl, rfl⟩

/-- `g` is what the byte is loaded into: a register, which is no device. -/
theorem pullOne_keepsDevices {g : Byte → State → State}
    (hg : ∀ v t, (g v t).ioReads = t.ioReads ∧ (g v t).ioWrites = t.ioWrites) (s : State) :
    KeepsDevices s (pullOne g s) := by
  unfold pullOne
  rcases s.pop_room 1 with hr | ⟨hp, hr⟩
  · simp only [State.pop_next hr]; exact hg _ _
  · simp only [State.pop_fault hp hr]; exact ⟨rfl, rfl⟩

section stack

variable (s : State) (a0 : Word)

theorem callSubroutine_keepsDevices (target : Word) : KeepsDevices s (s.settle a0 (s.callSubroutine a0 target)) := by
  rcases s.push_room 2 with hr | ⟨hp, hr⟩
  · rw [State.callSubroutine_next hr]; exact ⟨rfl, rfl⟩
  · rw [State.callSubroutine_fault hp hr]; exact ⟨rfl, rfl⟩

theorem returnFromSubroutine_keepsDevices : KeepsDevices s (s.settle a0 (s.returnFromSubroutine a0)) := by
  rcases s.pop_room 2 with hr | ⟨hp, hr⟩
  · rw [State.returnFromSubroutine_next hr]; exact ⟨rfl, rfl⟩
  · rw [State.returnFromSubroutine_fault hp hr]; exact ⟨rfl, rfl⟩

theorem takeBreak_keepsDevices : KeepsDevices s (s.settle a0 (s.takeBreak a0)) := by
  rcases s.push_room 3 with hr | ⟨hp, hr⟩
  · rw [State.takeBreak_next hr]; exact ⟨rfl, rfl⟩
  · rw [State.takeBreak_fault hp hr]; exact ⟨rfl, rfl⟩

theorem returnFromBreak_keepsDevices : KeepsDevices s (s.settle a0 (s.returnFromBreak a0)) := by
  rcases s.pop_room 3 with hr | ⟨hp, hr⟩
  · rw [State.returnFromBreak_next hr]; exact ⟨rfl, rfl⟩
  · rw [State.returnFromBreak_fault hp hr]; exact ⟨rfl, rfl⟩

end stack

/-! ## Every instruction, and every step -/

/-- Under `IO_MODEL = ram` no instruction touches a device (R55). -/
theorem exec_keepsDevices {s : State} (h : s.params.ioModel = .ram) (i : Instr) : KeepsDevices s (exec i s) := by
  rw [exec_eq_execOf]
  generalize i.mnemonic = m
  generalize i.form = f
  cases m <;> simp only [execOf]
  case lda | ldx | ldy | and | ora | eor | cmp | cpx | cpy | bit =>
    refine withSource_keepsDevices f fun src => ?_
    simp only [lda_eq, ldx_eq, ldy_eq, logicA_eq, compareWith_eq, bitTest_eq]
    exact ⟨readSource_ioReads_ram h src, rfl⟩
  case adc => exact withSource_keepsDevices f (adc_keepsDevices h)
  case sbc => exact withSource_keepsDevices f (sbc_keepsDevices h)
  case sta | stx | sty => exact withMem_keepsDevices f fun m => store_keepsDevices h m _
  case inc | dec => exact withMem_keepsDevices f (modifyCell_keepsDevices h _)
  case asl | lsr | rol | ror => exact withPlace_keepsDevices f (shift_keepsDevices h _)
  case inx | iny | dex | dey | tax | tay | txa | tya | tsx | txs | clc | sec | cli | sei | clv | cld | sed | nop =>
    exact ⟨rfl, rfl⟩
  case bpl | bmi | bvc | bvs | bcc | bcs | bne | beq => exact branch_keepsDevices f _
  case jmp => exact jump_keepsDevices h f
  case pha | php => exact pushOne_keepsDevices _ s
  case pla | plp =>
    refine pullOne_keepsDevices ?_ s
    exact fun _ _ => ⟨rfl, rfl⟩
  case jsr => exact callSubroutine_keepsDevices s _ _
  case rts => exact returnFromSubroutine_keepsDevices s _
  case brk => exact takeBreak_keepsDevices s _
  case rti => exact returnFromBreak_keepsDevices s _

/-- The state an instruction leaves, seen from the state the step started in: the fetch, too, draws from no device. -/
theorem exec_atHandler_keepsDevices {s t : State} {i : Instr} (hram : s.params.ioModel = .ram)
    (h : exec i (s.atHandler i.length) = .next t) : t.ioReads = s.ioReads ∧ t.ioWrites = s.ioWrites := by
  have hexec : KeepsDevices (s.atHandler i.length) (exec i (s.atHandler i.length)) :=
    exec_keepsDevices (s := s.atHandler i.length) hram i
  rw [h] at hexec
  obtain ⟨hreads, hwrites⟩ := hexec
  exact ⟨hreads.trans (State.fetchBytes_ram hram _).2, hwrites⟩

/-- Settles O19: a step leaves a Halted state alone, halts on an unmapped opcode after one read, or ends with the state
an instruction left, to which it adds only cycles and what the verifier is fed. -/
theorem stepKeepsTheParameters : Obligations.StepKeepsTheParameters := by
  intro s u h
  rcases step_next_cases h with ⟨-, -, rfl⟩ | ⟨-, -, -, rfl⟩ | ⟨-, -, i, t, -, hexec, hend⟩
  case inl => exact ⟨rfl, rfl, fun _ => ⟨rfl, rfl⟩⟩
  case inr.inl =>
    exact ⟨rfl, rfl, fun hram => ⟨congrArg (fun r => r.2.ioReads) (State.memRead_ram hram s.pc), rfl⟩⟩
  case inr.inr =>
    have hkeeps := exec_keeps hexec
    have hdevices := fun hram => exec_atHandler_keepsDevices hram hexec
    rcases hend with ⟨-, rfl⟩ | ⟨_, -, rfl⟩ <;> exact ⟨hkeeps.params, hkeeps.loaded, hdevices⟩

end Sys2Proof.Proofs
end

section
/-! O14, O16: the invariant. It speaks of memory, the parameters, P, PC and the run state alone, so what a step adds to
the state a handler leaves (cycles, what the verifier is fed) does not matter to it. -/

open Sys2Proof Sys2Proof.Machine

namespace Sys2Proof.Proofs

theorem inv_resetTo (params : Params) (origin : Word) (h : Memory.wf params.mem0) :
    (State.resetTo params origin).Inv where
  memWf := h
  mem0Wf := h
  unusedOne := by simp [State.resetTo]
  breakZero := by simp [State.resetTo]
  haltLegal := trivial

/-- Settles O14: a reset fills memory from `MEM0`, sets P to 0x24 and starts the loop; the default `MEM0` is empty. -/
theorem resetMeetsTheInvariant : Obligations.ResetMeetsTheInvariant :=
  ⟨inv_resetTo, inv_resetTo _ _ Memory.wf_nil⟩

theorem inv_feedHalt {s : State} (h : s.Inv) (r : HaltReason) : (s.feedHalt r).Inv where
  memWf := h.memWf
  mem0Wf := h.mem0Wf
  unusedOne := h.unusedOne
  breakZero := h.breakZero
  haltLegal := h.haltLegal

/-- The end of a completed step: the cycles are counted and the record is fed to the verifier (R121, R131). -/
theorem inv_complete {s : State} (h : s.Inv) (n : Nat) (r : TraceRecord) :
    ({ s with cycles := s.cycles + n }.feedRecord r).Inv where
  memWf := h.memWf
  mem0Wf := h.mem0Wf
  unusedOne := h.unusedOne
  breakZero := h.breakZero
  haltLegal := h.haltLegal

/-- The halt of an unmapped opcode leaves PC just past the byte it names (R123). -/
theorem inv_unmapped {s : State} (h : s.Inv) {op : Byte} (hop : lookup op = none) (draws : Nat) :
    State.Inv { s with
      pc := s.pc + 1, diags := [], ioReads := draws, run := .halted (.unmappedOpcode op s.pc) } where
  memWf := h.memWf
  mem0Wf := h.mem0Wf
  unusedOne := h.unusedOne
  breakZero := h.breakZero
  haltLegal := ⟨hop, rfl⟩

/-- An instruction that a Running loop runs completes, and the loop is still Running, or it is abandoned, which takes
`STACK_POLICY = fault` and puts PC back at the opcode (R75). -/
theorem inv_exec_atHandler {s t : State} {i : Instr} (h : s.Inv) (hrun : s.run = .running)
    (hexec : exec i (s.atHandler i.length) = .next t) : t.Inv := by
  have hkeeps := exec_keeps hexec
  refine ⟨hkeeps.memWf h.memWf, hkeeps.params ▸ h.mem0Wf, hkeeps.bit5 h.unusedOne, hkeeps.bit4 h.breakZero, ?_⟩
  rcases hkeeps.run with ht | ⟨k, hpolicy, -, rfl⟩
  · have : t.run = .running := ht.trans hrun
    simp only [State.haltLegal, this]
  · exact ⟨hpolicy, rfl⟩

/-- Settles O16, by the ways a step can end: in the state as it was, in the halt of an unmapped opcode, or in the state
an instruction left, completed or abandoned. -/
theorem stepKeepsTheInvariant : Obligations.StepKeepsTheInvariant := by
  intro s u h hstep
  rcases step_next_cases hstep with ⟨-, -, rfl⟩ | ⟨-, -, hop, rfl⟩ | ⟨-, hrun, i, t, -, hexec, hend⟩
  case inl => exact h
  case inr.inl => exact inv_feedHalt (inv_unmapped h hop _) _
  case inr.inr =>
    have ht := inv_exec_atHandler h hrun hexec
    rcases hend with ⟨-, rfl⟩ | ⟨r, -, rfl⟩
    · exact inv_complete ht _ _
    · exact inv_feedHalt ht r

end Sys2Proof.Proofs
end

section
/-! O50, O52, O54, O55: the writers. One table says which fields an instruction may write, another which flags; that every
instruction keeps to its two entries, unless the fault policy abandons it (R75), is proved once, mnemonic by mnemonic, and
each statement is then read off the tables. -/

open Sys2Proof Sys2Proof.Machine

namespace Sys2Proof.Proofs

/-! ## The tables -/

/-- `s` with the fields that an instruction of the mnemonic and form may write taken from `t`. -/
def frameOf (m : Mnemonic) (f : Form) (s t : State) : State :=
  match m with
  | .lda | .adc | .sbc | .and | .ora | .eor => { s with a := t.a, p := t.p, ioReads := t.ioReads }
  | .ldx => { s with x := t.x, p := t.p, ioReads := t.ioReads }
  | .ldy => { s with y := t.y, p := t.p, ioReads := t.ioReads }
  | .cmp | .cpx | .cpy | .bit => { s with p := t.p, ioReads := t.ioReads }
  | .sta | .stx | .sty => { s with mem := t.mem, ioWrites := t.ioWrites, ioReads := t.ioReads }
  | .inc | .dec => { s with mem := t.mem, ioWrites := t.ioWrites, p := t.p, ioReads := t.ioReads }
  | .asl | .lsr | .rol | .ror =>
    match f with
    | .acc => { s with a := t.a, p := t.p }
    | .imp | .imm _ | .mem _ | .ind _ | .rel _ =>
      { s with mem := t.mem, ioWrites := t.ioWrites, p := t.p, ioReads := t.ioReads }
  | .txa | .tya => { s with a := t.a, p := t.p }
  | .inx | .dex | .tax | .tsx => { s with x := t.x, p := t.p }
  | .iny | .dey | .tay => { s with y := t.y, p := t.p }
  | .txs => { s with sp := t.sp }
  | .clc | .sec | .cli | .sei | .clv | .cld | .sed => { s with p := t.p }
  | .nop => s
  | .bpl | .bmi | .bvc | .bvs | .bcc | .bcs | .bne | .beq => { s with pc := t.pc }
  | .jmp => { s with pc := t.pc, ioReads := t.ioReads }
  | .pha | .php => { s with sp := t.sp, mem := t.mem, diags := t.diags }
  | .pla => { s with sp := t.sp, a := t.a, p := t.p, diags := t.diags }
  | .plp => { s with sp := t.sp, p := t.p, diags := t.diags }
  | .jsr => { s with sp := t.sp, mem := t.mem, pc := t.pc, diags := t.diags }
  | .rts => { s with sp := t.sp, pc := t.pc, diags := t.diags }
  | .brk => { s with sp := t.sp, mem := t.mem, p := t.p, pc := t.pc, diags := t.diags }
  | .rti => { s with sp := t.sp, p := t.p, pc := t.pc, diags := t.diags }

/-- The flags that an instruction of the mnemonic may write. -/
def flagsOf : Mnemonic → List StatusFlag
  | .lda | .ldx | .ldy | .and | .ora | .eor | .inc | .dec | .inx | .iny | .dex | .dey | .tax | .tay | .txa | .tya
  | .tsx | .pla => [.z, .n]
  | .adc | .sbc => [.z, .n, .v, .c]
  | .cmp | .cpx | .cpy | .asl | .lsr | .rol | .ror => [.z, .n, .c]
  | .bit => [.v, .n, .z]
  | .clc | .sec => [.c]
  | .cli | .sei | .brk => [.i]
  | .clv => [.v]
  | .cld | .sed => [.d]
  | .plp | .rti => [.n, .v, .d, .i, .z, .c]
  | .sta | .stx | .sty | .txs | .nop | .bpl | .bmi | .bvc | .bvs | .bcc | .bcs | .bne | .beq | .jmp | .pha | .php
  | .jsr | .rts => []

/-- `q` is `p` but for the bits of the listed flags (R27). -/
def KeepsOtherBits (p q : Byte) (fs : List StatusFlag) : Prop :=
  ∀ k, (∀ f ∈ fs, f.bit ≠ k) → q.getLsbD k = p.getLsbD k

/-- P after an instruction: pulled from the stack by PLP and RTI (R28), else as before but for the flags of the table. -/
def StatusFrame (m : Mnemonic) (p q : Byte) : Prop :=
  (m ∈ [.plp, .rti] ∧ ∃ v, q = pulledStatus v) ∨ KeepsOtherBits p q (flagsOf m)

/-- From `s` to `t` nothing is written but what the tables let an instruction of the mnemonic and form write. -/
structure Writes (m : Mnemonic) (f : Form) (s t : State) : Prop where
  frame  : t = frameOf m f s t
  status : StatusFrame m s.p t.p

/-- An instruction keeps to the tables, or is abandoned, which changes PC and the run state (R75). -/
def WritesOrAbandoned (m : Mnemonic) (f : Form) (s t : State) : Prop :=
  Writes m f s t ∨ ∃ k a0, t = s.abandon k a0

/-! ## What the flag computations write, in the terms of the table -/

theorem keepsOtherBits_refl (p : Byte) (fs : List StatusFlag) : KeepsOtherBits p p fs := fun _ _ => rfl

theorem keepsOtherBits_of_writesFlags {p q : Byte} {w : List (StatusFlag × Bool)} (h : WritesFlags p q w) :
    KeepsOtherBits p q (w.map Prod.fst) :=
  fun k hk => h.2 k fun fb hfb => hk fb.1 (List.mem_map_of_mem hfb)

theorem setFlag_only (f : StatusFlag) (b : Bool) (p : Byte) : WritesFlags p (setFlag f b p) [(f, b)] :=
  setFlag_writes f b (writesFlags_nil p) (by simp)

section status

variable {m : Mnemonic} {p : Byte}

theorem statusFrame_refl : StatusFrame m p p := .inr (keepsOtherBits_refl p _)

theorem statusFrame_of_writesFlags {q : Byte} {w : List (StatusFlag × Bool)} (h : WritesFlags p q w)
    (hm : flagsOf m = w.map Prod.fst) : StatusFrame m p q :=
  .inr (hm ▸ keepsOtherBits_of_writesFlags h)

end status

/-! ## The stack instructions: each completes in the closed form of Laws/Stack, or is abandoned (R75) -/

section stack

variable {f : Form} {s t : State} {a0 : Word}

theorem pushOne_writes {m : Mnemonic} (hm : m = .pha ∨ m = .php) {v : Byte} (h : pushOne v s = .next t) :
    WritesOrAbandoned m f s t := by
  rcases s.push_room 1 with hr | ⟨hp, hr⟩
  · simp only [pushOne, State.push_next hr] at h
    cases h
    rcases hm with rfl | rfl <;> exact .inl ⟨rfl, statusFrame_refl⟩
  · simp only [pushOne, State.push_fault hp hr] at h
    cases h
    exact .inr ⟨_, _, rfl⟩

/-- `g` is what the byte is loaded into. -/
theorem pullOne_writes {m : Mnemonic} {g : Byte → State → State}
    (hg : ∀ v sp diags, Writes m f s (g v { s with sp := sp, diags := diags })) (h : pullOne g s = .next t) :
    WritesOrAbandoned m f s t := by
  rcases s.pop_room 1 with hr | ⟨hp, hr⟩
  · simp only [pullOne, State.pop_next hr] at h
    cases h
    exact .inl (hg _ _ _)
  · simp only [pullOne, State.pop_fault hp hr] at h
    cases h
    exact .inr ⟨_, _, rfl⟩

theorem callSubroutine_writes {target : Word} (h : s.settle a0 (s.callSubroutine a0 target) = .next t) :
    WritesOrAbandoned .jsr f s t := by
  rcases s.push_room 2 with hr | ⟨hp, hr⟩
  · rw [State.callSubroutine_next hr] at h
    cases h
    exact .inl ⟨rfl, statusFrame_refl⟩
  · rw [State.callSubroutine_fault hp hr] at h
    cases h
    exact .inr ⟨_, _, rfl⟩

theorem returnFromSubroutine_writes (h : s.settle a0 (s.returnFromSubroutine a0) = .next t) :
    WritesOrAbandoned .rts f s t := by
  rcases s.pop_room 2 with hr | ⟨hp, hr⟩
  · rw [State.returnFromSubroutine_next hr] at h
    cases h
    exact .inl ⟨rfl, statusFrame_refl⟩
  · rw [State.returnFromSubroutine_fault hp hr] at h
    cases h
    exact .inr ⟨_, _, rfl⟩

theorem takeBreak_writes (h : s.settle a0 (s.takeBreak a0) = .next t) : WritesOrAbandoned .brk f s t := by
  rcases s.push_room 3 with hr | ⟨hp, hr⟩
  · rw [State.takeBreak_next hr] at h
    cases h
    exact .inl ⟨rfl, statusFrame_of_writesFlags (setFlag_only _ _ _) rfl⟩
  · rw [State.takeBreak_fault hp hr] at h
    cases h
    exact .inr ⟨_, _, rfl⟩

theorem returnFromBreak_writes (h : s.settle a0 (s.returnFromBreak a0) = .next t) :
    WritesOrAbandoned .rti f s t := by
  rcases s.pop_room 3 with hr | ⟨hp, hr⟩
  · rw [State.returnFromBreak_next hr] at h
    cases h
    exact .inl ⟨rfl, .inl ⟨by simp, _, rfl⟩⟩
  · rw [State.returnFromBreak_fault hp hr] at h
    cases h
    exact .inr ⟨_, _, rfl⟩

end stack

/-! ## Every instruction keeps to the tables -/

theorem jumpTarget_snd (f : Form) (s : State) :
    (jumpTarget f s).2 = { s with ioReads := (jumpTarget f s).2.ioReads } := by
  cases f with
  | mem m => exact effAddr_snd m s
  | ind ptr => exact indirectTarget_snd ptr s
  | imp | acc | imm _ | rel _ => rfl

theorem exec_writes {i : Instr} {s t : State} (h : exec i s = .next t) : WritesOrAbandoned i.mnemonic i.form s t := by
  have hw := Laws.instr_wf i
  rw [exec_eq_execOf] at h
  revert hw h
  unfold Instr.wf
  generalize i.mnemonic = m
  generalize i.form = f
  intro h hw
  cases m <;> simp only [execOf] at h
  case lda | ldx | ldy | and | ora | eor =>
    obtain ⟨src, hs⟩ := source_of_wf hw (by simp)
    simp only [withSource, hs, lda_eq, ldx_eq, ldy_eq, logicA_eq, Host.Outcome.next.injEq] at h
    subst h
    exact .inl ⟨rfl, statusFrame_of_writesFlags (setNZ_only _ _) rfl⟩
  case adc | sbc =>
    obtain ⟨src, hs⟩ := source_of_wf hw (by simp)
    simp only [withSource, hs] at h
    cases hd : s.refusesDecimal
    · simp only [adc_eq src hd, sbc_eq src hd, Host.Outcome.next.injEq] at h
      subst h
      exact .inl ⟨rfl, statusFrame_of_writesFlags (addFlags_writes _ _) rfl⟩
    · simp [adc, sbc, hd] at h
  case cmp | cpx | cpy =>
    obtain ⟨src, hs⟩ := source_of_wf hw (by simp)
    simp only [withSource, hs, compareWith_eq, Host.Outcome.next.injEq] at h
    subst h
    exact .inl ⟨rfl, statusFrame_of_writesFlags (compareFlags_writes _ _ _) rfl⟩
  case bit =>
    obtain ⟨src, hs⟩ := source_of_wf hw (by simp)
    simp only [withSource, hs, bitTest_eq, Host.Outcome.next.injEq] at h
    subst h
    exact .inl ⟨rfl, statusFrame_of_writesFlags (bitFlags_writes _ _ _) rfl⟩
  case sta | stx | sty =>
    obtain ⟨e, he⟩ := memForm_of_wf hw (by simp)
    simp only [withMem, he, store_eq, Host.Outcome.next.injEq] at h
    subst h
    exact .inl ⟨rfl, statusFrame_refl⟩
  case inc | dec =>
    obtain ⟨e, he⟩ := memForm_of_wf hw (by simp)
    simp only [withMem, he, modifyCell_eq, Host.Outcome.next.injEq] at h
    subst h
    exact .inl ⟨rfl, statusFrame_of_writesFlags (setNZ_only _ _) rfl⟩
  case asl | lsr | rol | ror =>
    obtain ⟨pl, hpl⟩ := place_of_wf hw (by simp)
    cases f <;> cases hpl <;>
      simp only [withPlace, Form.place?, shift_acc_eq, shift_mem_eq, Host.Outcome.next.injEq] at h <;> subst h <;>
      exact .inl ⟨rfl, statusFrame_of_writesFlags (shiftFlags_writes _ _) rfl⟩
  case inx | iny | dex | dey | tax | tay | txa | tya | tsx =>
    simp only [setX, setY, transferA, Host.Outcome.next.injEq] at h
    subst h
    exact .inl ⟨rfl, statusFrame_of_writesFlags (setNZ_only _ _) rfl⟩
  case txs | nop =>
    cases h
    exact .inl ⟨rfl, statusFrame_refl⟩
  case clc | sec | cli | sei | clv | cld | sed =>
    cases h
    exact .inl ⟨rfl, statusFrame_of_writesFlags (setFlag_only _ _ _) rfl⟩
  case bpl | bmi | bvc | bvs | bcc | bcs | bne | beq =>
    cases f <;> cases h <;> exact .inl ⟨rfl, statusFrame_refl⟩
  case jmp =>
    cases h
    rw [jumpTarget_snd]
    exact .inl ⟨rfl, statusFrame_refl⟩
  case pha => exact pushOne_writes (.inl rfl) h
  case php => exact pushOne_writes (.inr rfl) h
  case pla => exact pullOne_writes (fun _ _ _ => ⟨rfl, statusFrame_of_writesFlags (setNZ_only _ _) rfl⟩) h
  case plp => exact pullOne_writes (fun _ _ _ => ⟨rfl, .inl ⟨by simp, _, rfl⟩⟩) h
  case jsr => exact callSubroutine_writes h
  case rts => exact returnFromSubroutine_writes h
  case brk => exact takeBreak_writes h
  case rti => exact returnFromBreak_writes h

/-! ## The registers -/

/-- Settles O50: an abandoned instruction changes no register, and the frames that take a register from the state after
are those of its writers. -/
theorem registersHaveOnlyTheirWriters : Obligations.RegistersHaveOnlyTheirWriters := by
  intro i s t h
  rcases exec_writes h with ⟨hframe, -⟩ | ⟨k, a0, rfl⟩
  case inr => exact ⟨absurd rfl, absurd rfl, absurd rfl, absurd rfl⟩
  rw [hframe]
  generalize i.mnemonic = m
  generalize i.form = f
  cases m
  case asl | lsr | rol | ror => cases f <;> simp [frameOf]
  all_goals simp [frameOf]

/-- Settles O54: the frames that take PC from the state after are those of the control transfers, and an abandoned
instruction is one that a StackBoundary halt ends. -/
theorem pcHasOnlyItsWriters : Obligations.PcHasOnlyItsWriters := by
  intro i s t h hpc
  rcases exec_writes h with ⟨hframe, -⟩ | ⟨k, a0, rfl⟩
  case inr => exact .inr ⟨k, a0, rfl⟩
  left
  rw [hframe] at hpc
  revert hpc
  generalize i.mnemonic = m
  generalize i.form = f
  cases m
  case asl | lsr | rol | ror => cases f <;> simp [frameOf]
  all_goals simp [frameOf]

/-! ## The status register -/

theorem exec_statusFrame {i : Instr} {s t : State} (h : exec i s = .next t) : StatusFrame i.mnemonic s.p t.p := by
  rcases exec_writes h with hwrites | ⟨k, a0, rfl⟩
  · exact hwrites.status
  · exact statusFrame_refl

/-- An instruction that changes a flag has it in its entry of the table. -/
theorem mem_flagsOf_of_ne {i : Instr} {s t : State} (h : exec i s = .next t) {f : StatusFlag}
    (hf : t.flag f ≠ s.flag f) : f ∈ flagsOf i.mnemonic := by
  rcases exec_statusFrame h with ⟨hm, -⟩ | hkeeps
  · have hall : flagsOf i.mnemonic = [.n, .v, .d, .i, .z, .c] := by
      generalize i.mnemonic = m at hm
      fin_cases hm <;> rfl
    rw [hall]
    cases f <;> decide
  · by_contra hnot
    exact hf (hkeeps f.bit fun g hg hbit => hnot (StatusFlag.bit_inj.mp hbit ▸ hg))

/-- Settles O52: the mnemonics with a flag in their entry are those its rule lists. -/
theorem flagsHaveOnlyTheirWriters : Obligations.FlagsHaveOnlyTheirWriters := by
  intro i s t h
  refine ⟨fun hne => ?_, fun hne => ?_, fun hne => ?_, fun hne => ?_, fun hne => ?_⟩
  · have hmem := hne.imp (mem_flagsOf_of_ne h) (mem_flagsOf_of_ne h)
    revert hmem
    generalize i.mnemonic = m
    cases m <;> decide
  all_goals
    have hmem := mem_flagsOf_of_ne h hne
    revert hmem
    generalize i.mnemonic = m
    cases m <;> decide

/-- Settles O55: neither bit is a flag's, so only a pulled status changes them, which has bit 5 set and bit 4 clear. -/
theorem breakAndUnusedBitsAreFixed : Obligations.BreakAndUnusedBitsAreFixed := by
  intro i s t h
  rcases exec_statusFrame h with ⟨hm, v, hv⟩ | hkeeps
  · rw [hv]
    exact .inr ⟨hm, pulledStatus_bit5 v, pulledStatus_bit4 v⟩
  · have h5 := hkeeps 5 fun f _ => by cases f <;> decide
    have h4 := hkeeps 4 fun f _ => by cases f <;> decide
    exact .inl ⟨h5, h4⟩

end Sys2Proof.Proofs
end

section
/-! O22, O51: what an instruction and a step do not read. Each statement takes one part of the state out (A, X or Y, or
all that `State.visible` takes out) and says that the answers are alike but for that part. So a part is hidden before
the instruction and after it, and one proof serves all of them. -/

open Sys2Proof Sys2Proof.Machine

namespace Sys2Proof.Proofs

/-- A part of the state that an instruction may not read: a register, or what no instruction reads (`State.visible`). -/
inductive Part where
  | a | x | y | unread

/-- The state with a part taken out. -/
def Part.hide : Part → State → State
  | .a, s => { s with a := 0 }
  | .x, s => { s with x := 0 }
  | .y, s => { s with y := 0 }
  | .unread, s => s.visible

/-- The modes whose effective address reads the part (R91, R92, R94, R95, R97, R98). -/
def Part.indexes : Part → Mode → Prop
  | .a, _ | .unread, _ => False
  | .x, mode => mode ∈ [.zpx, .abx, .izx]
  | .y, mode => mode ∈ [.zpy, .aby, .izy]

/-- The instructions that read the part, as R21, R22 and R23 list them. -/
def Part.readBy : Part → Mnemonic → Form → Prop
  | .a, m, f => m ∈ [.sta, .pha, .tax, .tay, .adc, .sbc, .and, .ora, .eor, .cmp, .bit] ∨
      (m ∈ [.asl, .lsr, .rol, .ror] ∧ f = .acc)
  | .x, m, f => m ∈ [.stx, .txa, .txs, .cpx, .inx, .dex] ∨ f.mode ∈ [.zpx, .abx, .izx]
  | .y, m, f => m ∈ [.sty, .tya, .cpy, .iny, .dey] ∨ f.mode ∈ [.zpy, .aby, .izy]
  | .unread, _, _ => False

/-- The answers are alike but for the part. -/
def SameBut (part : Part) (r q : Result) : Prop := mapNext part.hide r = mapNext part.hide q

/-- What does not change when something is taken out first is the same in two states alike but for that. -/
theorem eq_of_hidden_first {α : Type} {hide : State → State} {F : State → α} (hF : ∀ s, F (hide s) = F s) {s u : State}
    (h : hide s = hide u) : F s = F u :=
  (hF s).symm.trans ((congrArg F h).trans (hF u))

/-! ## Hiding a part leaves the others alone -/

section hide

variable {part : Part} (s : State)

@[simp] theorem hide_sp : (part.hide s).sp = s.sp := by cases part <;> rfl
@[simp] theorem hide_p : (part.hide s).p = s.p := by cases part <;> rfl
@[simp] theorem hide_pc : (part.hide s).pc = s.pc := by cases part <;> rfl
@[simp] theorem hide_params : (part.hide s).params = s.params := by cases part <;> rfl
@[simp] theorem hide_flag (f : StatusFlag) : (part.hide s).flag f = s.flag f := by cases part <;> rfl
@[simp] theorem hide_refusesDecimal : (part.hide s).refusesDecimal = s.refusesDecimal := by cases part <;> rfl
@[simp] theorem hide_opcodeAddr (n : Nat) : (part.hide s).opcodeAddr n = s.opcodeAddr n := by cases part <;> rfl
@[simp] theorem hide_hide : part.hide (part.hide s) = part.hide s := by cases part <;> rfl

theorem hide_a (h : part ≠ .a) : (part.hide s).a = s.a := by
  cases part
  case a => exact absurd rfl h
  all_goals rfl

theorem hide_x (h : part ≠ .x) : (part.hide s).x = s.x := by
  cases part
  case x => exact absurd rfl h
  all_goals rfl

theorem hide_y (h : part ≠ .y) : (part.hide s).y = s.y := by
  cases part
  case y => exact absurd rfl h
  all_goals rfl

end hide

/-! ## The resolver and the operand helpers -/

section operands

variable {part : Part} (s : State)

theorem memRead_hide (a : Word) : (part.hide s).memRead a = ((s.memRead a).1, part.hide (s.memRead a).2) := by
  cases part <;> rfl

theorem readPair_hide (lo hi : Word) :
    (part.hide s).readPair lo hi = ((s.readPair lo hi).1, part.hide (s.readPair lo hi).2) := by
  simp only [State.readPair, memRead_hide]

theorem readZp16_hide (z : Byte) :
    (part.hide s).readZp16 z = ((s.readZp16 z).1, part.hide (s.readZp16 z).2) := readPair_hide s _ _

theorem effAddr_hide {m : MemForm} (h : ¬ part.indexes m.mode) :
    effAddr m (part.hide s) = ((effAddr m s).1, part.hide (effAddr m s).2) := by
  cases m with
  | zp z | abs a => rfl
  | zpx z | abx a =>
    have hx : part ≠ .x := by rintro rfl; exact h (by simp [Part.indexes, MemForm.mode])
    simp only [effAddr, hide_x s hx]
  | zpy z | aby a =>
    have hy : part ≠ .y := by rintro rfl; exact h (by simp [Part.indexes, MemForm.mode])
    simp only [effAddr, hide_y s hy]
  | izx z =>
    have hx : part ≠ .x := by rintro rfl; exact h (by simp [Part.indexes, MemForm.mode])
    simp only [effAddr, hide_x s hx, readZp16_hide]
  | izy z =>
    have hy : part ≠ .y := by rintro rfl; exact h (by simp [Part.indexes, MemForm.mode])
    simp only [effAddr, readZp16_hide, hide_y _ hy]

theorem readSource_hide {src : Source} (h : ¬ part.indexes src.form.mode) :
    readSource src (part.hide s) = ((readSource src s).1, part.hide (readSource src s).2) := by
  cases src with
  | imm v => rfl
  | mem m => simp only [readSource, effAddr_hide s (m := m) h, memRead_hide]

theorem jumpTarget_hide {f : Form} (h : ¬ part.indexes f.mode) :
    jumpTarget f (part.hide s) = ((jumpTarget f s).1, part.hide (jumpTarget f s).2) := by
  cases f with
  | mem m => exact effAddr_hide s h
  | ind ptr =>
    simp only [jumpTarget, indirectTarget, State.read16PageWrap, State.read16, hide_params, readPair_hide]
    split <;> rfl
  | imp | acc | imm _ | rel _ => simp only [jumpTarget, hide_pc]

end operands

/-! ## The operand forms -/

section forms

variable {part : Part} {f : Form} {s : State}

theorem sameBut_next {t u : State} (h : part.hide t = part.hide u) : SameBut part (.next t) (.next u) :=
  congrArg Host.Outcome.next h

theorem sameBut_unchanged : SameBut part (.next (part.hide s)) (.next s) := sameBut_next (hide_hide s)

theorem withSource_sameBut {g' g : Source → Result} (hf : ¬ part.indexes f.mode)
    (h : ∀ src, ¬ part.indexes src.form.mode → SameBut part (g' src) (g src)) :
    SameBut part (withSource f g' (part.hide s)) (withSource f g s) := by
  unfold withSource
  split
  · rename_i src hsrc
    exact h src (Form.source?_eq hsrc ▸ hf)
  · exact sameBut_unchanged

theorem withMem_sameBut {g' g : MemForm → Result} (hf : ¬ part.indexes f.mode)
    (h : ∀ m, ¬ part.indexes m.mode → SameBut part (g' m) (g m)) :
    SameBut part (withMem f g' (part.hide s)) (withMem f g s) := by
  cases f with
  | mem m => exact h m hf
  | imp | acc | imm _ | ind _ | rel _ => exact sameBut_unchanged

theorem branch_sameBut {cond' cond : Bool} (h : cond' = cond) :
    SameBut part (withOffset f (branchIf cond' · (part.hide s)) (part.hide s)) (withOffset f (branchIf cond · s) s) := by
  subst h
  cases f <;> cases part <;> rfl

end forms

/-! ## The meanings -/

section meanings

variable {part : Part} (s : State)

theorem store_sameBut {m : MemForm} (h : ¬ part.indexes m.mode) {v' v : Byte} (hv : v' = v) :
    SameBut part (store m v' (part.hide s)) (store m v s) := by
  subst hv
  simp only [store, effAddr_hide s h]
  cases part <;> rfl

theorem modifyCell_sameBut (op : Byte → Byte) {m : MemForm} (h : ¬ part.indexes m.mode) :
    SameBut part (modifyCell op m (part.hide s)) (modifyCell op m s) := by
  simp only [modifyCell, effAddr_hide s h, memRead_hide]
  cases part <;> rfl

theorem shift_acc_sameBut (op : Byte → Bool → ShiftResult) (h : part ≠ .a) :
    SameBut part (shift op .acc (part.hide s)) (shift op .acc s) := by
  simp only [shift_acc_eq, hide_a s h, hide_flag, hide_p]
  cases part <;> rfl

theorem shift_mem_sameBut (op : Byte → Bool → ShiftResult) {m : MemForm} (h : ¬ part.indexes m.mode) :
    SameBut part (shift op (.mem m) (part.hide s)) (shift op (.mem m) s) := by
  simp only [shift, resolvePlace, effAddr_hide s h, State.readLoc, memRead_hide]
  cases part <;> rfl

theorem jump_sameBut {f : Form} (h : ¬ part.indexes f.mode) :
    SameBut part (jumpTo (jumpTarget f (part.hide s))) (jumpTo (jumpTarget f s)) := by
  simp only [jumpTo, jumpTarget_hide s h]
  cases part <;> rfl

theorem shift_sameBut (op : Byte → Bool → ShiftResult) {f : Form} (hf : ¬ part.indexes f.mode)
    (hacc : f = .acc → part ≠ .a) :
    SameBut part (withPlace f (shift op · (part.hide s)) (part.hide s)) (withPlace f (shift op · s) s) := by
  cases f with
  | acc => exact shift_acc_sameBut s op (hacc rfl)
  | mem m => exact shift_mem_sameBut s op hf
  | imp | imm _ | ind _ | rel _ => exact sameBut_unchanged

section source

variable {src : Source} (h : ¬ part.indexes src.form.mode)
include h

theorem lda_sameBut : SameBut part (lda src (part.hide s)) (lda src s) := by
  simp only [lda, readSource_hide s h]
  cases part <;> rfl

theorem ldx_sameBut : SameBut part (ldx src (part.hide s)) (ldx src s) := by
  simp only [ldx, readSource_hide s h]
  cases part <;> rfl

theorem ldy_sameBut : SameBut part (ldy src (part.hide s)) (ldy src s) := by
  simp only [ldy, readSource_hide s h]
  cases part <;> rfl

theorem compareWith_sameBut {reg' reg : Byte} (hreg : reg' = reg) :
    SameBut part (compareWith reg' src (part.hide s)) (compareWith reg src s) := by
  subst hreg
  simp only [compareWith, readSource_hide s h]
  cases part <;> rfl

theorem logicA_sameBut (op : Byte → Byte → Byte) (ha : part ≠ .a) :
    SameBut part (logicA op src (part.hide s)) (logicA op src s) := by
  simp only [logicA, readSource_hide s h, hide_a _ ha]
  cases part <;> rfl

theorem bitTest_sameBut (ha : part ≠ .a) : SameBut part (bitTest src (part.hide s)) (bitTest src s) := by
  simp only [bitTest, readSource_hide s h, hide_a _ ha]
  cases part <;> rfl

theorem adc_sameBut (ha : part ≠ .a) : SameBut part (adc src (part.hide s)) (adc src s) := by
  simp only [adc, hide_refusesDecimal, hide_opcodeAddr, readSource_hide s h, hide_a _ ha, hide_flag]
  split
  · rfl
  · cases part <;> rfl

theorem sbc_sameBut (ha : part ≠ .a) : SameBut part (sbc src (part.hide s)) (sbc src s) := by
  simp only [sbc, hide_refusesDecimal, hide_opcodeAddr, readSource_hide s h, hide_a _ ha, hide_flag]
  split
  · rfl
  · cases part <;> rfl

end source

section registers

variable {v' v : Byte} (h : v' = v)
include h

theorem transferA_sameBut : SameBut part (transferA v' (part.hide s)) (transferA v s) := by
  subst h
  cases part <;> rfl

theorem setX_sameBut : SameBut part (setX v' (part.hide s)) (setX v s) := by
  subst h
  cases part <;> rfl

theorem setY_sameBut : SameBut part (setY v' (part.hide s)) (setY v s) := by
  subst h
  cases part <;> rfl

theorem setSp_sameBut : SameBut part (.next { part.hide s with sp := v' }) (.next { s with sp := v }) := by
  subst h
  cases part <;> rfl

end registers

theorem writeFlag_sameBut (f : StatusFlag) (b : Bool) :
    SameBut part (writeFlag f b (part.hide s)) (writeFlag f b s) := by
  cases part <;> rfl

end meanings

/-! ## The stack instructions: S and the policy, which decide whether one completes (R75), are in no part -/

section stack

variable {part : Part} (s : State)

theorem abandon_sameBut (k : StackKind) (a0 : Word) :
    SameBut part (.next ((part.hide s).abandon k a0)) (.next (s.abandon k a0)) := by
  cases part <;> rfl

theorem pushOne_sameBut {v' v : Byte} (h : v' = v) : SameBut part (pushOne v' (part.hide s)) (pushOne v s) := by
  subst h
  simp only [pushOne, hide_opcodeAddr]
  rcases s.push_room 1 with hr | ⟨hp, hr⟩
  · rw [State.push_next hr, State.push_next (s := part.hide s) (by simpa using hr)]
    cases part <;> rfl
  · rw [State.push_fault hp hr, State.push_fault (s := part.hide s) (by simpa using hp) (by simpa using hr)]
    exact abandon_sameBut s _ _

/-- `g` is what the byte is loaded into. -/
theorem pullOne_sameBut {g : Byte → State → State}
    (hg : ∀ v t, part.hide (g v (part.hide t)) = part.hide (g v t)) :
    SameBut part (pullOne g (part.hide s)) (pullOne g s) := by
  have pulled {v : Byte} {t u : State} (htu : part.hide t = part.hide u) : part.hide (g v t) = part.hide (g v u) :=
    eq_of_hidden_first (F := fun w => part.hide (g v w)) (hg v) htu
  simp only [pullOne, hide_opcodeAddr]
  rcases s.pop_room 1 with hr | ⟨hp, hr⟩
  · rw [State.pop_next hr, State.pop_next (s := part.hide s) (by simpa using hr)]
    apply sameBut_next
    cases part <;> exact pulled rfl
  · rw [State.pop_fault hp hr, State.pop_fault (s := part.hide s) (by simpa using hp) (by simpa using hr)]
    exact abandon_sameBut s _ _

variable (a0 : Word)

theorem callSubroutine_sameBut {target' target : Word} (h : target' = target) :
    SameBut part ((part.hide s).settle a0 ((part.hide s).callSubroutine a0 target'))
      (s.settle a0 (s.callSubroutine a0 target)) := by
  subst h
  rcases s.push_room 2 with hr | ⟨hp, hr⟩
  · rw [State.callSubroutine_next hr, State.callSubroutine_next (s := part.hide s) (by simpa using hr)]
    cases part <;> rfl
  · rw [State.callSubroutine_fault hp hr,
      State.callSubroutine_fault (s := part.hide s) (by simpa using hp) (by simpa using hr)]
    exact abandon_sameBut s _ _

theorem returnFromSubroutine_sameBut :
    SameBut part ((part.hide s).settle a0 ((part.hide s).returnFromSubroutine a0))
      (s.settle a0 (s.returnFromSubroutine a0)) := by
  rcases s.pop_room 2 with hr | ⟨hp, hr⟩
  · rw [State.returnFromSubroutine_next hr, State.returnFromSubroutine_next (s := part.hide s) (by simpa using hr)]
    cases part <;> rfl
  · rw [State.returnFromSubroutine_fault hp hr,
      State.returnFromSubroutine_fault (s := part.hide s) (by simpa using hp) (by simpa using hr)]
    exact abandon_sameBut s _ _

theorem takeBreak_sameBut :
    SameBut part ((part.hide s).settle a0 ((part.hide s).takeBreak a0)) (s.settle a0 (s.takeBreak a0)) := by
  rcases s.push_room 3 with hr | ⟨hp, hr⟩
  · rw [State.takeBreak_next hr, State.takeBreak_next (s := part.hide s) (by simpa using hr)]
    cases part <;> rfl
  · rw [State.takeBreak_fault hp hr,
      State.takeBreak_fault (s := part.hide s) (by simpa using hp) (by simpa using hr)]
    exact abandon_sameBut s _ _

theorem returnFromBreak_sameBut :
    SameBut part ((part.hide s).settle a0 ((part.hide s).returnFromBreak a0)) (s.settle a0 (s.returnFromBreak a0)) := by
  rcases s.pop_room 3 with hr | ⟨hp, hr⟩
  · rw [State.returnFromBreak_next hr, State.returnFromBreak_next (s := part.hide s) (by simpa using hr)]
    cases part <;> rfl
  · rw [State.returnFromBreak_fault hp hr,
      State.returnFromBreak_fault (s := part.hide s) (by simpa using hp) (by simpa using hr)]
    exact abandon_sameBut s _ _

end stack

/-! ## Every instruction -/

section instruction

variable {part : Part} {m : Mnemonic} {f : Form} (h : ¬ part.readBy m f)
include h

theorem not_indexes_of_not_readBy : ¬ part.indexes f.mode := by
  cases part with
  | a | unread => exact id
  | x | y => exact fun hmode => h (.inr hmode)

theorem ne_a_of_not_readBy (hm : m ∈ [.sta, .pha, .tax, .tay, .adc, .sbc, .and, .ora, .eor, .cmp, .bit]) :
    part ≠ .a := by
  rintro rfl
  exact h (.inl hm)

theorem ne_a_of_not_readBy_acc (hm : m ∈ [.asl, .lsr, .rol, .ror]) (hf : f = .acc) : part ≠ .a := by
  rintro rfl
  exact h (.inr ⟨hm, hf⟩)

theorem ne_x_of_not_readBy (hm : m ∈ [.stx, .txa, .txs, .cpx, .inx, .dex]) : part ≠ .x := by
  rintro rfl
  exact h (.inl hm)

theorem ne_y_of_not_readBy (hm : m ∈ [.sty, .tya, .cpy, .iny, .dey]) : part ≠ .y := by
  rintro rfl
  exact h (.inl hm)

end instruction

/-- An instruction answers alike, but for a part it does not read, when that part is taken out first. -/
theorem exec_hide {part : Part} {i : Instr} (h : ¬ part.readBy i.mnemonic i.form) (s : State) :
    SameBut part (exec i (part.hide s)) (exec i s) := by
  rw [exec_eq_execOf, exec_eq_execOf]
  revert h
  generalize i.mnemonic = m
  generalize i.form = f
  intro h
  have hf := not_indexes_of_not_readBy h
  have readsA := fun hm => hide_a s (ne_a_of_not_readBy h hm)
  have readsX := fun hm => hide_x s (ne_x_of_not_readBy h hm)
  have readsY := fun hm => hide_y s (ne_y_of_not_readBy h hm)
  cases m <;> simp only [execOf]
  case lda => exact withSource_sameBut hf fun _ => lda_sameBut s
  case ldx => exact withSource_sameBut hf fun _ => ldx_sameBut s
  case ldy => exact withSource_sameBut hf fun _ => ldy_sameBut s
  case adc => exact withSource_sameBut hf fun _ hsrc => adc_sameBut s hsrc (ne_a_of_not_readBy h (by simp))
  case sbc => exact withSource_sameBut hf fun _ hsrc => sbc_sameBut s hsrc (ne_a_of_not_readBy h (by simp))
  case and | ora | eor =>
    exact withSource_sameBut hf fun _ hsrc => logicA_sameBut s hsrc _ (ne_a_of_not_readBy h (by simp))
  case bit => exact withSource_sameBut hf fun _ hsrc => bitTest_sameBut s hsrc (ne_a_of_not_readBy h (by simp))
  case cmp => exact withSource_sameBut hf fun _ hsrc => compareWith_sameBut s hsrc (readsA (by simp))
  case cpx => exact withSource_sameBut hf fun _ hsrc => compareWith_sameBut s hsrc (readsX (by simp))
  case cpy => exact withSource_sameBut hf fun _ hsrc => compareWith_sameBut s hsrc (readsY (by simp))
  case sta => exact withMem_sameBut hf fun _ hm => store_sameBut s hm (readsA (by simp))
  case stx => exact withMem_sameBut hf fun _ hm => store_sameBut s hm (readsX (by simp))
  case sty => exact withMem_sameBut hf fun _ hm => store_sameBut s hm (readsY (by simp))
  case inc | dec => exact withMem_sameBut hf fun _ => modifyCell_sameBut s _
  case asl | lsr | rol | ror => exact shift_sameBut s _ hf (ne_a_of_not_readBy_acc h (by simp))
  case tax => exact setX_sameBut s (readsA (by simp))
  case tay => exact setY_sameBut s (readsA (by simp))
  case txa => exact transferA_sameBut s (readsX (by simp))
  case tya => exact transferA_sameBut s (readsY (by simp))
  case tsx => exact setX_sameBut s (hide_sp s)
  case txs => exact setSp_sameBut s (readsX (by simp))
  case inx => exact setX_sameBut s (congrArg (· + 1) (readsX (by simp)))
  case dex => exact setX_sameBut s (congrArg (· - 1) (readsX (by simp)))
  case iny => exact setY_sameBut s (congrArg (· + 1) (readsY (by simp)))
  case dey => exact setY_sameBut s (congrArg (· - 1) (readsY (by simp)))
  case clc | sec | cli | sei | clv | cld | sed => exact writeFlag_sameBut s _ _
  case nop => exact sameBut_unchanged
  case bpl | bvc | bcc | bne => exact branch_sameBut (congrArg (!·) (hide_flag s _))
  case bmi | bvs | bcs | beq => exact branch_sameBut (hide_flag s _)
  case jmp => exact jump_sameBut s hf
  case pha => exact pushOne_sameBut s (readsA (by simp))
  case php => exact pushOne_sameBut s (congrArg pushedStatus (hide_p s))
  case pla | plp =>
    refine pullOne_sameBut s fun _ _ => ?_
    cases part <;> rfl
  case jsr =>
    simp only [hide_opcodeAddr]
    exact callSubroutine_sameBut s _ (by rw [jumpTarget_hide s hf])
  case rts => simpa only [hide_opcodeAddr] using returnFromSubroutine_sameBut s _
  case brk => simpa only [hide_opcodeAddr] using takeBreak_sameBut s _
  case rti => simpa only [hide_opcodeAddr] using returnFromBreak_sameBut s _

/-- Two states alike but for a part answer alike but for it, where the instruction does not read it. -/
theorem exec_sameBut {part : Part} {i : Instr} (h : ¬ part.readBy i.mnemonic i.form) {s u : State}
    (hsu : part.hide s = part.hide u) : SameBut part (exec i s) (exec i u) :=
  eq_of_hidden_first (F := fun t => mapNext part.hide (exec i t)) (exec_hide h) hsu

/-- Settles O51: a register is hidden by being set to 0, and the instructions that read it are the ones listed. -/
theorem registersHaveOnlyTheirReaders : Obligations.RegistersHaveOnlyTheirReaders := by
  intro i s v
  exact ⟨fun h => exec_sameBut (part := .a) h rfl, fun h => exec_sameBut (part := .x) h rfl,
    fun h => exec_sameBut (part := .y) h rfl⟩

/-! ## Every step: the fetch, too, reads none of what `State.visible` takes out, and all that the end of a step adds to
the state the handler left is taken out -/

theorem fetchBytes_visible (s : State) (n : Nat) :
    (s.visible.fetchBytes n).1 = (s.fetchBytes n).1 ∧
      (s.visible.fetchBytes n).2.ioReads = (s.fetchBytes n).2.ioReads :=
  State.fetchBytes_congr (s := s) (t := s.visible) rfl rfl rfl rfl n

theorem visible_atHandler (s : State) (n : Nat) : (s.visible.atHandler n).visible = (s.atHandler n).visible := by
  simp only [State.atHandler, fetchBytes_visible]
  rfl

theorem finish_visible (record : TraceRecord) (n : Nat) (s t : State) :
    mapNext State.visible ((finish record n t).toOutcome s) = .next t.visible := by
  unfold finish
  split <;> rfl

/-- A step that fetches an instruction answers as the instruction does, but for what `State.visible` takes out. -/
theorem stepOf_sameBut (s u : State) (i : Instr) :
    SameBut .unread ((stepOf s i).toOutcome u) (exec i (s.atHandler i.length)) := by
  unfold stepOf
  split
  · rename_i t ht
    rw [ht]
    exact finish_visible _ _ u t
  · rename_i ht
    rw [ht]
    rfl
  · rename_i ht
    rw [ht]
    rfl

theorem dispatchStep_of_unmapped {s : State} (hl : s.loaded = true) (hr : s.run = .running)
    (hop : lookup (s.memRead s.pc).1 = none) :
    dispatchStep s = .halt (.unmappedOpcode (s.memRead s.pc).1 s.pc)
      { s with
        pc := s.pc + 1, diags := [], ioReads := (s.memRead s.pc).2.ioReads
        run := .halted (.unmappedOpcode (s.memRead s.pc).1 s.pc) } := by
  rcases dispatchStep_cases s with ⟨hl', -⟩ | ⟨-, r, hr', -⟩ | ⟨-, -, -, hd⟩ | ⟨-, -, i, hi, -⟩
  · simp [hl] at hl'
  · simp [hr] at hr'
  · exact hd
  · obtain ⟨r, hr', -⟩ := State.fetched_mnemonic hi
    simp [hop] at hr'

/-- A step answers alike when what `State.visible` takes out is taken out first. -/
theorem step_visible (s : State) : SameBut .unread (step s.visible) (step s) := by
  unfold step
  rcases dispatchStep_cases s with ⟨hl, hd⟩ | ⟨hl, r, hr, hd⟩ | ⟨hl, hr, hop, hd⟩ | ⟨hl, hr, i, hi, hd⟩
  · have hd' : dispatchStep s.visible = .refused .notLoaded := by simp [dispatchStep, State.visible, hl]
    rw [hd, hd']
    rfl
  · have hd' : dispatchStep s.visible = .halted r := by simp [dispatchStep, State.visible, hl, hr]
    rw [hd, hd']
    rfl
  · rw [hd, dispatchStep_of_unmapped (s := s.visible) hl hr hop]
    rfl
  · rw [hd, dispatchStep_of_encode (s := s.visible) hl hr ((fetchBytes_visible s _).1.trans hi)]
    calc mapNext State.visible ((stepOf s.visible i).toOutcome s.visible)
      _ = mapNext State.visible (exec i (s.visible.atHandler i.length)) := stepOf_sameBut _ _ i
      _ = mapNext State.visible (exec i (s.atHandler i.length)) :=
        exec_sameBut (part := .unread) id (visible_atHandler s i.length)
      _ = mapNext State.visible ((stepOf s i).toOutcome s) := (stepOf_sameBut _ _ i).symm

theorem next_of_mapNext {f : State → State} {r : Result} {t : State} (h : .next t = mapNext f r) :
    ∃ w, r = .next w ∧ t = f w := by
  cases r with
  | next w => exact ⟨w, rfl, Host.Outcome.next.inj h⟩
  | fault _ | refused _ => cases h

theorem refused_of_mapNext {f : State → State} {r : Result} {e : Refusal} (h : .refused e = mapNext f r) :
    r = .refused e := by
  cases r with
  | refused _ => exact h.symm
  | next _ | fault _ => cases h

/-- Settles O22: both states answer as the one visible state they share does. -/
theorem stepReadsNoCounterNorVerifier : Obligations.StepReadsNoCounterNorVerifier := by
  intro s u hsu
  have hstep : mapNext State.visible (step s) = mapNext State.visible (step u) :=
    eq_of_hidden_first (F := fun t => mapNext State.visible (step t)) step_visible hsu
  refine ⟨fun t ht => ?_, fun r hr => ?_⟩
  · rw [ht] at hstep
    exact next_of_mapNext hstep
  · rw [hr] at hstep
    exact refused_of_mapNext hstep

end Sys2Proof.Proofs
end

section
/-! O9, O10, O11, O53: the memory space. What a canonical cell is, in numbers; the two kinds of access, to a plain cell and
to a device window; and who writes memory, read off the table of frames. -/

open Sys2Proof Sys2Proof.Machine

namespace Sys2Proof.Proofs

/-! ## Canonical addresses -/

theorem isCanonical_iff (k : Nat) :
    isCanonical k = true ↔ k < 0x800 ∨ (0x2000 ≤ k ∧ k < 0x2008) ∨ (0x4000 ≤ k ∧ k < 0x10000) := by
  simp [isCanonical, or_assoc]

/-- The canonical cells are fixed points of `canon` (R52). -/
theorem canon_of_isCanonical {a : Word} (h : isCanonical a.toNat = true) : canon a = a := by
  rw [isCanonical_iff] at h
  apply BitVec.eq_of_toNat_eq
  rw [canon_toNat]
  split
  · omega
  · split <;> omega

theorem canon_canon (a : Word) : canon (canon a) = canon a := canon_of_isCanonical (isCanonical_canon a)

/-- Every canonical cell is the canonical address of one address, itself (R52). -/
theorem exists_word_of_isCanonical {k : Nat} (h : isCanonical k = true) : ∃ b : Word, canon b = b ∧ b.toNat = k := by
  have hlt : k < 2 ^ 16 := by rw [isCanonical_iff] at h; omega
  have hk : (BitVec.ofNat 16 k).toNat = k := by rw [BitVec.toNat_ofNat, Nat.mod_eq_of_lt hlt]
  exact ⟨BitVec.ofNat 16 k, canon_of_isCanonical (by rwa [hk]), hk⟩

/-- Settles O9: `canon` in numbers gives the three windows; its values are canonical, and a canonical cell is its own. -/
theorem canonicalAddresses : Obligations.CanonicalAddresses := by
  intro a
  have hcanon := canon_toNat a
  refine ⟨fun h => ?_, fun h1 h2 => ?_, fun h => ?_, canon_canon a, isCanonical_canon a,
    fun k => exists_word_of_isCanonical⟩
  · rw [hcanon, if_pos (by omega)]
  · rw [hcanon, if_neg (by omega), if_pos (by omega)]
  · apply BitVec.eq_of_toNat_eq
    rw [hcanon, if_neg (by omega), if_neg (by omega)]

/-! ## The two kinds of access (R53 to R55) -/

section access

variable {s : State} {a : Word}

/-- A read that goes to no device gives the cell and changes nothing (R53). -/
theorem memRead_plain (h : s.atDevice a = false) : s.memRead a = (s.peek a, s) := by
  simp [State.memRead, h]

/-- A write that goes to no device changes nothing but memory (R54). -/
theorem memWrite_plain (h : s.atDevice a = false) (v : Byte) :
    s.memWrite a v = { s with mem := (s.memWrite a v).mem } := by
  simp [State.memWrite, h]

/-- A read of a device takes the next draw (R55). -/
theorem memRead_device (h : s.atDevice a = true) :
    s.memRead a = (Config.ioDraw s.ioReads, { s with ioReads := s.ioReads + 1 }) := by
  simp [State.memRead, h]

/-- A write to a device is an event and nothing else (R55). -/
theorem memWrite_device (h : s.atDevice a = true) (v : Byte) :
    s.memWrite a v = { s with ioWrites := s.ioWrites ++ [⟨canon a, v⟩] } := by
  simp [State.memWrite, h]

/-- What a plain cell's write stores, read through any address (R54). -/
theorem peek_memWrite_plain (h : s.atDevice a = false) (v : Byte) (b : Word) :
    (s.memWrite a v).peek b = if canon b = canon a then v else s.peek b := by
  simp [State.peek_memWrite, h]

end access

/-- The device windows in numbers (R51). -/
theorem isDeviceCell_iff (c : Word) :
    isDeviceCell c = true ↔ (0x2000 ≤ c.toNat ∧ c.toNat ≤ 0x2007) ∨ (0x4000 ≤ c.toNat ∧ c.toNat ≤ 0x401F) := by
  simp [isDeviceCell, BitVec.le_def]

/-- Settles O10: under `ram` every access is to a plain cell, and an address reads a cell by its canonical address
alone. -/
theorem readAfterWrite : Obligations.ReadAfterWrite := by
  intro s a b v hram
  have hplain : s.atDevice a = false := State.atDevice_ram hram a
  refine ⟨State.memRead_ram hram b, fun hab => by rw [State.peek, State.peek, hab], memWrite_plain hplain v, ?_⟩
  rw [State.memRead_ram (s := s.memWrite a v) hram, peek_memWrite_plain hplain]

/-- Settles O11: an access goes to a device exactly under `oracle` and in a window; the two clauses are its two kinds. -/
theorem deviceWindows : Obligations.DeviceWindows := by
  intro s a v device
  have hwindow : isDeviceCell (canon a) = true ↔ device := isDeviceCell_iff (canon a)
  refine ⟨fun horacle hdevice => ?_, fun hplain => ?_⟩
  · have hd : s.atDevice a = true := by simp [State.atDevice, horacle, hwindow.mpr hdevice]
    exact ⟨memRead_device hd, memWrite_device hd v⟩
  · have hd : s.atDevice a = false := by
      rcases hplain with hram | hout
      · exact State.atDevice_ram hram a
      · simp [State.atDevice, Bool.eq_false_iff.mpr (mt hwindow.mp hout)]
    exact ⟨memRead_plain hd, memWrite_plain hd v, peek_memWrite_plain hd v⟩

/-! ## The writers of memory -/

/-- Settles O53: a byte that changes is in a memory that does; an abandoned instruction keeps its memory, and the frames
that take memory from the state after are those of the stores, of the read-modify-writes of a cell, and of the pushes. -/
theorem memoryHasOnlyItsWriters : Obligations.MemoryHasOnlyItsWriters := by
  intro i s t b h hpeek
  have hmem : t.mem ≠ s.mem := fun e => hpeek (by rw [State.peek, State.peek, e])
  rcases exec_writes h with ⟨hframe, -⟩ | ⟨k, a0, rfl⟩
  case inr => exact absurd rfl hmem
  rw [hframe] at hmem
  revert hmem
  generalize i.mnemonic = m
  generalize i.form = f
  cases m
  case asl | lsr | rol | ror => cases f <;> simp [frameOf]
  all_goals simp [frameOf]

end Sys2Proof.Proofs
end

section
/-! O39: the stack boundary under `STACK_POLICY = fault`. An instruction one of whose pushes or pops would wrap S is
abandoned, whichever of the eight it is, and a step ends with the abandoned state as it is. -/

open Sys2Proof Sys2Proof.Machine

namespace Sys2Proof.Proofs

/-! ## The lengths of the stack instructions -/

theorem mode_mem_modes (i : Instr) : i.form.mode ∈ i.mnemonic.modes := by
  simpa [Instr.wf, WellFormed] using Laws.instr_wf i

theorem length_of_implied {i : Instr} (h : i.mnemonic.modes = [.imp]) : i.length = 1 := by
  have hmode : i.form.mode = .imp := by simpa [h] using mode_mem_modes i
  simp [Instr.length, hmode, Mode.operandBytes]

theorem length_of_absolute {i : Instr} (h : i.mnemonic.modes = [.abs]) : i.length = 3 := by
  have hmode : i.form.mode = .abs := by simpa [h] using mode_mem_modes i
  simp [Instr.length, hmode, Mode.operandBytes]

/-! ## The abandoned instruction -/

section fault

variable {s : State} (hp : s.params.stackPolicy = .fault)
include hp

theorem pushOne_fault (h : s.sp.toNat < 1) (v : Byte) : pushOne v s = .next (s.abandon .push (s.opcodeAddr 1)) := by
  simp only [pushOne, State.push_fault hp h, State.settle]

theorem pullOne_fault (h : 255 < s.sp.toNat + 1) (g : Byte → State → State) :
    pullOne g s = .next (s.abandon .pop (s.opcodeAddr 1)) := by
  simp only [pullOne, State.pop_fault hp h, State.settle]

/-- An instruction one of whose pushes or pops would wrap S is abandoned (R75). -/
theorem exec_of_crossesBoundary {i : Instr} {k : StackKind} (h : crossesBoundary k i.mnemonic s.sp) :
    exec i s = .next (s.abandon k (s.opcodeAddr i.length)) := by
  have himp := length_of_implied (i := i)
  have habs := length_of_absolute (i := i)
  rw [exec_eq_execOf]
  revert himp habs h
  generalize i.mnemonic = m
  generalize i.length = n
  intro h himp habs
  obtain ⟨c, ⟨rfl, hm, hsp⟩ | ⟨rfl, hm, hsp⟩⟩ := h
  · simp only [List.mem_cons, Prod.mk.injEq, List.not_mem_nil, or_false] at hm
    rcases hm with ⟨rfl, rfl⟩ | ⟨rfl, rfl⟩ | ⟨rfl, rfl⟩ | ⟨rfl, rfl⟩
    case inr.inr.inl =>
      obtain rfl := habs rfl
      simp only [execOf, State.callSubroutine_fault hp hsp, State.settle]
    all_goals obtain rfl := himp rfl
    · simp only [execOf, pushOne_fault hp hsp]
    · simp only [execOf, pushOne_fault hp hsp]
    · simp only [execOf, State.takeBreak_fault hp hsp, State.settle]
  · simp only [List.mem_cons, Prod.mk.injEq, List.not_mem_nil, or_false] at hm
    rcases hm with ⟨rfl, rfl⟩ | ⟨rfl, rfl⟩ | ⟨rfl, rfl⟩ | ⟨rfl, rfl⟩ <;> obtain rfl := himp rfl
    · simp only [execOf, pullOne_fault hp hsp]
    · simp only [execOf, pullOne_fault hp hsp]
    · simp only [execOf, State.returnFromSubroutine_fault hp hsp, State.settle]
    · simp only [execOf, State.returnFromBreak_fault hp hsp, State.settle]

end fault

/-- Settles O39: the handler starts with the S of the step, so it is abandoned, which puts PC back at the opcode. -/
theorem stackBoundaryHaltsTheStep : Obligations.StackBoundaryHaltsTheStep := by
  intro i n k s hloaded hrun hpolicy hfetch hcross
  have hexec := exec_of_crossesBoundary (s := s.atHandler i.length) hpolicy ⟨n, hcross⟩
  rw [State.opcodeAddr_atHandler] at hexec
  rw [dispatchStep_of_encode hloaded hrun hfetch, stepOf, hexec]
  rfl

end Sys2Proof.Proofs
end

section
/-! O1, O2, O4, O5: decoding and encoding. Both go through the row of the table: an instruction's opcode looks up the row
that makes it (`Laws.TableRow.all`), and what a row makes has the row's opcode (`Row.build_ok`). -/

open Sys2Proof Sys2Proof.Machine

namespace Sys2Proof.Proofs

theorem decode_cons_mapped {op : Byte} {r : Row} (h : lookup op = some r) (bytes : List Byte) :
    decode (op :: bytes) = r.build bytes := by
  simp [decode, h]

/-- Bytes decode only by the row of their first byte (R80). -/
theorem decode_ok_cases {bytes rest : List Byte} {i : Instr} (h : decode bytes = .ok (i, rest)) :
    ∃ op r tail, bytes = op :: tail ∧ lookup op = some r ∧ r.build tail = .ok (i, rest) := by
  cases bytes with
  | nil => cases h
  | cons op tail =>
    cases hr : lookup op with
    | none => simp [decode, hr] at h
    | some r => exact ⟨op, r, tail, rfl, hr, decode_cons_mapped hr tail ▸ h⟩

/-- Settles O1: the opcode looks up the instruction's row, which makes it of its operand bytes. -/
theorem decodeOfEncodeIsTheInstruction : Obligations.DecodeOfEncodeIsTheInstruction := by
  intro i rest
  obtain ⟨r, hlookup, -, -, -, hbuild⟩ := Laws.TableRow.all i
  calc decode (encode i ++ rest)
    _ = r.build (i.form.operandBytes ++ rest) := decode_cons_mapped hlookup _
    _ = .ok (i, rest) := hbuild rest

/-- Settles O2: what the row of the first byte makes has that byte as its opcode, and the bytes it took as its
operands. -/
theorem encodeOfDecodeIsTheBytes : Obligations.EncodeOfDecodeIsTheBytes := by
  intro bytes rest i h
  obtain ⟨op, r, tail, rfl, hlookup, hbuild⟩ := decode_ok_cases h
  obtain ⟨ops, hmakes, rfl⟩ := Row.build_ok (table_sound (lookup_mem hlookup)) hbuild
  have hop : i.opcode = op := hmakes.opcode.trans (lookup_opcode hlookup)
  rw [encode, hop, hmakes.operands, List.cons_append]

/-- Settles O4: each word is looked up in the table, and a 16-bit field is its two bytes joined. -/
theorem specWordsDecode : Obligations.SpecWordsDecode := by
  intro b lo hi
  rw [← joinBytes_eq]
  exact ⟨rfl, rfl, rfl, rfl, rfl, rfl, rfl, rfl, rfl, rfl, rfl⟩

/-! ## Lengths -/

@[simp] theorem form_operandBytes_length (f : Form) : f.operandBytes.length = f.mode.operandBytes := by
  cases f with
  | mem m => cases m <;> rfl
  | imp | acc | imm _ | ind _ | rel _ => rfl

@[simp] theorem encode_length (i : Instr) : (encode i).length = i.length := by
  simp [encode, Instr.length, Nat.add_comm]

theorem mode_operandBytes_le (mode : Mode) : mode.operandBytes ≤ 2 := by
  cases mode <;> decide

/-- Two instructions with one opcode are made by one row. -/
theorem mnemonic_mode_of_opcode_eq {i j : Instr} (h : i.opcode = j.opcode) :
    i.mnemonic = j.mnemonic ∧ i.form.mode = j.form.mode := by
  obtain ⟨r, hi, -, himnemonic, himode, -⟩ := Laws.TableRow.all i
  obtain ⟨q, hj, -, hjmnemonic, hjmode, -⟩ := Laws.TableRow.all j
  obtain rfl : r = q := Option.some.inj (hi.symm.trans (h ▸ hj))
  exact ⟨himnemonic.symm.trans hjmnemonic, himode.symm.trans hjmode⟩

/-- Settles O5: a mode has at most two operand bytes, and the opcode fixes the row, so the mode, so the length. -/
theorem opcodeFixesModeAndLength : Obligations.OpcodeFixesModeAndLength := by
  refine ⟨fun i => ⟨encode_length i, ?_, ?_, rfl⟩, fun i j h => ?_⟩
  · exact Nat.le_add_right 1 _
  · exact Nat.add_le_add_left (mode_operandBytes_le _) 1
  · obtain ⟨hmnemonic, hmode⟩ := mnemonic_mode_of_opcode_eq h
    exact ⟨hmnemonic, hmode, by rw [Instr.length, Instr.length, hmode]⟩

end Sys2Proof.Proofs
end

section
/-! O3, O6, O7: the opcode map. The table against the lists of R84 and R85, and the pairing of mnemonics with forms. -/

open Sys2Proof Sys2Proof.Machine Sys2Proof.Claims

namespace Sys2Proof.Proofs

/-! ## The table and the lists of the spec -/

/-- A fact of every row is one of the rows of each high nibble. -/
theorem forall_mem_table {p : Row → Prop} (h : ∀ hi : Fin 16, ∀ r ∈ tableRow hi, p r) : ∀ r ∈ table, p r := by
  intro r hr
  obtain ⟨hi, hhi, hr⟩ := List.mem_flatMap.mp hr
  exact h ⟨hi, List.mem_range.mp hhi⟩ r hr

/-- High nibble by high nibble, the opcodes that the map of R84 leaves out are the ones R85 lists. -/
theorem unmapped_by_nibbles : ∀ hi lo : Fin 16,
    16 * hi.val + lo.val ∉ (tableRow hi).map (·.opcode.toNat) ↔
      16 * hi.val + lo.val ∈ unmappedOpcodes.map (·.toNat) := by
  decide

theorem lookup_eq_none_iff (op : Byte) : lookup op = none ↔ op ∈ unmappedOpcodes := by
  have hlt := op.isLt
  have hnibbles := unmapped_by_nibbles ⟨op.toNat / 16, by omega⟩ ⟨op.toNat % 16, by omega⟩
  simp only [Nat.div_add_mod] at hnibbles
  calc lookup op = none
    _ ↔ op.toNat ∉ (tableRow (op.toNat / 16)).map (·.opcode.toNat) := by
      simp [lookup, BitVec.toNat_inj]
    _ ↔ op.toNat ∈ unmappedOpcodes.map (·.toNat) := hnibbles
    _ ↔ op ∈ unmappedOpcodes := by simp only [List.mem_map, BitVec.toNat_inj, exists_eq_right]

/-- Every row of the table is one R84 lists. -/
theorem row_listed : ∀ r ∈ table, (r.opcode, r.mode) ∈ encodingsOf r.mnemonic :=
  forall_mem_table (by decide)

/-- Every entry R84 lists is the table's. -/
theorem lookup_of_listed (m : Mnemonic) :
    ∀ e ∈ encodingsOf m, ∃ r ∈ lookup e.1, r.mnemonic = m ∧ r.mode = e.2 := by
  cases m <;> decide

/-- Settles O3: the look-up of a listed opcode fails, and a step that fetches it halts after that one read. -/
theorem unmappedOpcodesHalt : Obligations.UnmappedOpcodesHalt := by
  refine ⟨rfl, fun op => ⟨lookup_eq_none_iff op, ?_⟩⟩
  rintro s hloaded hrun rfl hop
  rw [dispatchStep_of_unmapped hloaded hrun ((lookup_eq_none_iff _).mpr hop)]

/-- Settles O6: each listed entry looks up its row, and each row is listed under the opcode that looks it up. -/
theorem opcodeMapIsTheListedOne : Obligations.OpcodeMapIsTheListedOne := by
  refine ⟨rfl, fun op m mode => ⟨fun h => lookup_of_listed m _ h, ?_⟩⟩
  rintro ⟨r, hr, rfl, rfl⟩
  obtain rfl := lookup_opcode hr
  exact row_listed r (lookup_mem hr)

/-! ## Assembling -/

/-- R84 gives a mnemonic one opcode in each mode. -/
theorem listed_modes_nodup (m : Mnemonic) : ((encodingsOf m).map (·.2)).Nodup := by
  cases m <;> decide

/-- R84 lists an opcode for every mode a mnemonic takes. -/
theorem modes_listed (m : Mnemonic) : ∀ mode ∈ m.modes, ∃ e ∈ encodingsOf m, e.2 = mode := by
  cases m <;> decide

/-- An instruction is encoded as its rule lists it. -/
theorem instr_encodedAsListed (i : Instr) : encodedAsListed i := by
  obtain ⟨r, hlookup, hopcode, hmnemonic, hmode, -⟩ := Laws.TableRow.all i
  rw [encodedAsListed, ← hopcode, ← hmnemonic, ← hmode]
  exact row_listed r (lookup_mem hlookup)

/-- A mnemonic and a mode have one opcode. -/
theorem opcode_eq_of_mnemonic_mode {i j : Instr} (hmnemonic : i.mnemonic = j.mnemonic)
    (hmode : i.form.mode = j.form.mode) : i.opcode = j.opcode := by
  have hi := instr_encodedAsListed i
  have hj := instr_encodedAsListed j
  rw [encodedAsListed, hmnemonic] at hi
  exact congrArg Prod.fst (List.inj_on_of_nodup_map (listed_modes_nodup _) hi hj hmode)

theorem encode_injective : Function.Injective encode := by
  intro i j h
  have hi := decodeOfEncodeIsTheInstruction i []
  rw [h, decodeOfEncodeIsTheInstruction j []] at hi
  cases hi
  rfl

/-- An instruction is its mnemonic and its form: the two fix its encoding. -/
theorem instr_ext {i j : Instr} (hmnemonic : i.mnemonic = j.mnemonic) (hform : i.form = j.form) : i = j := by
  apply encode_injective
  rw [encode, encode, opcode_eq_of_mnemonic_mode hmnemonic (congrArg Form.mode hform), hform]

/-- The form of a mode with the given operand bytes (R81). -/
def formOf (mode : Mode) (bytes : List Byte) : Option Form :=
  match mode, bytes with
  | .imp, [] => some .imp
  | .acc, [] => some .acc
  | .imm, [v] => some (.imm v)
  | .zp, [z] => some (.mem (.zp z))
  | .zpx, [z] => some (.mem (.zpx z))
  | .zpy, [z] => some (.mem (.zpy z))
  | .izx, [z] => some (.mem (.izx z))
  | .izy, [z] => some (.mem (.izy z))
  | .rel, [off] => some (.rel off)
  | .abs, [lo, hi] => some (.mem (.abs (joinBytes lo hi)))
  | .abx, [lo, hi] => some (.mem (.abx (joinBytes lo hi)))
  | .aby, [lo, hi] => some (.mem (.aby (joinBytes lo hi)))
  | .ind, [lo, hi] => some (.ind (joinBytes lo hi))
  | _, _ => none

@[simp] theorem formOf_operandBytes (f : Form) : formOf f.mode f.operandBytes = some f := by
  cases f with
  | mem m => cases m <;> simp [Form.mode, MemForm.mode, Form.operandBytes, MemForm.operandBytes, formOf]
  | imp | acc | imm _ | rel _ => rfl
  | ind ptr => simp [Form.mode, Form.operandBytes, formOf]

theorem form_ext {f g : Form} (hmode : f.mode = g.mode) (hbytes : f.operandBytes = g.operandBytes) : f = g := by
  have hf := formOf_operandBytes f
  rw [hmode, hbytes, formOf_operandBytes] at hf
  exact (Option.some.inj hf).symm

theorem mode_operandBytes_of_makes {r : Row} {i : Instr} {ops : List Byte} (h : r.Makes i ops) :
    r.mode.operandBytes = ops.length := by
  rw [← h.operands, form_operandBytes_length, h.mode]

/-- A row makes an instruction of as many bytes as its mode takes, and leaves none. -/
theorem build_of_length {r : Row} (h : r.Sound) {bytes : List Byte} (hlength : bytes.length = r.mode.operandBytes) :
    ∃ i, r.build bytes = .ok (i, []) := by
  obtain ⟨op, m, mode, n, shape⟩ := r
  cases shape with
  | none i =>
    have hmakes : Row.Makes _ i [] := h
    obtain rfl := List.length_eq_zero_iff.mp (hlength.trans (mode_operandBytes_of_makes hmakes))
    exact ⟨i, rfl⟩
  | byte f =>
    have hmakes : Row.Makes _ (f 0) [0] := h 0
    obtain ⟨b, rfl⟩ := List.length_eq_one_iff.mp (hlength.trans (mode_operandBytes_of_makes hmakes))
    exact ⟨f b, rfl⟩
  | word f =>
    have hmakes : Row.Makes _ (f 0) [loByte 0, hiByte 0] := h 0
    obtain ⟨lo, hi, rfl⟩ := List.length_eq_two.mp (hlength.trans (mode_operandBytes_of_makes hmakes))
    exact ⟨f (joinBytes lo hi), rfl⟩

/-- What `assemble` does, by the row it finds. -/
theorem assemble_eq_some_iff {m : Mnemonic} {f : Form} {i : Instr} : assemble m f = some i ↔
    ∃ r, table.find? (fun r => r.mnemonic == m && r.mode == f.mode) = some r ∧ r.build f.operandBytes = .ok (i, []) := by
  unfold assemble
  split
  case h_1 hnone => simp [hnone]
  case h_2 r hr =>
    split
    case h_1 j hbuild => simp [hr, hbuild]
    case h_2 hrest =>
      simp only [hr, Option.some.injEq, exists_eq_left', reduceCtorEq, false_iff]
      exact hrest i

theorem mnemonic_form_of_assemble {m : Mnemonic} {f : Form} {i : Instr} (h : assemble m f = some i) :
    i.mnemonic = m ∧ i.form = f := by
  obtain ⟨r, hfind, hbuild⟩ := assemble_eq_some_iff.mp h
  obtain ⟨hmnemonic, hmode⟩ : r.mnemonic = m ∧ r.mode = f.mode := by simpa using List.find?_some hfind
  obtain ⟨ops, hmakes, hops⟩ := Row.build_ok (table_sound (List.mem_of_find?_eq_some hfind)) hbuild
  refine ⟨hmakes.mnemonic.trans hmnemonic, form_ext (hmakes.mode.trans hmode) ?_⟩
  rw [hmakes.operands, hops, List.append_nil]

theorem assemble_of_wellFormed {m : Mnemonic} {f : Form} (h : WellFormed m f = true) : ∃ i, assemble m f = some i := by
  obtain ⟨e, he, hmode⟩ := modes_listed m f.mode (by simpa [WellFormed] using h)
  obtain ⟨q, hq, hqm, hqmode⟩ := lookup_of_listed m e he
  have hfound : (table.find? fun r => r.mnemonic == m && r.mode == f.mode).isSome :=
    List.find?_isSome.mpr ⟨q, lookup_mem hq, by simp [hqm, hqmode, hmode]⟩
  obtain ⟨r, hr⟩ := Option.isSome_iff_exists.mp hfound
  obtain ⟨-, hrmode⟩ : r.mnemonic = m ∧ r.mode = f.mode := by simpa using List.find?_some hr
  obtain ⟨i, hi⟩ := build_of_length (table_sound (List.mem_of_find?_eq_some hr)) (bytes := f.operandBytes)
    (by rw [form_operandBytes_length, hrmode])
  exact ⟨i, assemble_eq_some_iff.mpr ⟨r, hr, hi⟩⟩

theorem assemble_mnemonic_form (i : Instr) : assemble i.mnemonic i.form = some i := by
  obtain ⟨j, hj⟩ := assemble_of_wellFormed (Laws.instr_wf i)
  obtain ⟨hmnemonic, hform⟩ := mnemonic_form_of_assemble hj
  rwa [instr_ext hmnemonic hform] at hj

/-- Settles O7: what a pair assembles to has its mnemonic and form, of which every instruction has its own. -/
theorem eachPairAssemblesToOneInstruction : Obligations.EachPairAssemblesToOneInstruction := by
  refine ⟨fun m f => ⟨assemble_of_wellFormed, ?_⟩, fun m f i => ⟨mnemonic_form_of_assemble, ?_⟩⟩
  · rintro ⟨i, hi⟩
    obtain ⟨rfl, rfl⟩ := mnemonic_form_of_assemble hi
    exact Laws.instr_wf i
  · rintro ⟨rfl, rfl⟩
    exact assemble_mnemonic_form i

end Sys2Proof.Proofs
end

section
/-! O23: the resolver in numbers. The zero-page sums wrap modulo 256, a pointer is two reads with the low byte first, and an
indirect pointer's high byte is read where `JMP_IND_PAGE_WRAP` says. -/

open Sys2Proof Sys2Proof.Machine

namespace Sys2Proof.Proofs

/-- The address of a zero-page cell, whose number wraps modulo 256 (R59). -/
def zeroPageCell (n : Nat) : Word := BitVec.ofNat 16 (n % 256)

/-- The pointer two zero-page cells hold, the low byte first, and the state after reading them (R59). -/
def zeroPagePointer (n : Nat) (s : State) : Nat × State :=
  let l := s.memRead (zeroPageCell n)
  let h := l.2.memRead (zeroPageCell (n + 1))
  (l.1.toNat + 256 * h.1.toNat, h.2)

theorem zext16_eq_cell (z : Byte) : zext16 z = zeroPageCell z.toNat := zext16_eq z

/-- A zero-page sum wraps modulo 256 (R91, R92). -/
theorem zext16_add (z x : Byte) : zext16 (z + x) = zeroPageCell (z.toNat + x.toNat) := by
  rw [zext16_eq_cell, zeroPageCell, zeroPageCell, BitVec.toNat_add, Nat.mod_mod]

/-- A 16-bit sum wraps modulo 65,536 (R94, R95, R98). -/
theorem ofNat_add_zext16 (n : Nat) (y : Byte) : BitVec.ofNat 16 n + zext16 y = BitVec.ofNat 16 (n + y.toNat) := by
  rw [BitVec.ofNat_add, BitVec.ofNat_toNat, zext16]

theorem word_add_zext16 (a : Word) (x : Byte) : a + zext16 x = BitVec.ofNat 16 (a.toNat + x.toNat) := by
  simpa using ofNat_add_zext16 a.toNat x

theorem zeroPagePointer_mod (n : Nat) (s : State) : zeroPagePointer (n % 256) s = zeroPagePointer n s := by
  simp only [zeroPagePointer, zeroPageCell, Nat.mod_mod, Nat.mod_add_mod]

/-- Two reads, in numbers (R8): the first byte is the low one. -/
theorem readPair_eq (s : State) (lo hi : Word) :
    s.readPair lo hi =
      (BitVec.ofNat 16 ((s.memRead lo).1.toNat + 256 * ((s.memRead lo).2.memRead hi).1.toNat),
        ((s.memRead lo).2.memRead hi).2) := by
  rw [State.readPair, joinBytes_eq]

/-- `ReadZP16` in numbers (R59). -/
theorem readZp16_eq (p : Byte) (s : State) :
    s.readZp16 p = (BitVec.ofNat 16 (zeroPagePointer p.toNat s).1, (zeroPagePointer p.toNat s).2) := by
  have hhigh : zext16 (p + 1) = zeroPageCell (p.toNat + 1) := zext16_add p 1
  rw [State.readZp16, readPair_eq, zext16_eq_cell, hhigh]
  rfl

/-- `ReadZP16` at a zero-page sum, which wraps modulo 256 (R97). -/
theorem readZp16_add (z x : Byte) (s : State) :
    s.readZp16 (z + x) =
      (BitVec.ofNat 16 (zeroPagePointer (z.toNat + x.toNat) s).1, (zeroPagePointer (z.toNat + x.toNat) s).2) := by
  rw [readZp16_eq, BitVec.toNat_add, zeroPagePointer_mod]

/-- Where an indirect jump reads the high byte of its target: on the pointer's own page, under `JMP_IND_PAGE_WRAP`
(R60). -/
def indirectHighCell (pageWrap : Bool) (a : Word) : Word :=
  if pageWrap = true then BitVec.ofNat 16 (a.toNat / 256 * 256 + (a.toNat + 1) % 256) else BitVec.ofNat 16 (a.toNat + 1)

theorem indirectTarget_eq (a : Word) (s : State) :
    indirectTarget a s = s.readPair a (indirectHighCell s.params.jmpIndPageWrap a) := by
  unfold indirectTarget State.read16PageWrap State.read16 indirectHighCell
  split
  · rw [pageWrap_eq]
  · rw [BitVec.ofNat_add, BitVec.ofNat_toNat, BitVec.setWidth_eq]
    rfl

/-- Settles O23: mode by mode, the resolver's sums and pointers in numbers; the helpers for operands resolve as it
does. -/
theorem resolverGivesTheModesAddresses : Obligations.ResolverGivesTheModesAddresses := by
  intro s z a zp pointer
  refine ⟨rfl, rfl, rfl, ?zp, ?zpx, ?zpy, rfl, ?abx, ?aby, ?izx, ?izy, ?ind, ?rel, fun f => resolve_snd f s,
    fun _ => ⟨rfl, rfl⟩, fun _ => ⟨rfl, rfl⟩⟩
  case zp => rw [resolve, effAddr, zext16_eq_cell]; rfl
  case zpx => rw [resolve, effAddr, zext16_add]; rfl
  case zpy => rw [resolve, effAddr, zext16_add]; rfl
  case abx => rw [resolve, effAddr, word_add_zext16]
  case aby => rw [resolve, effAddr, word_add_zext16]
  case izx => rw [resolve, effAddr, readZp16_add]; rfl
  case izy =>
    rw [resolve, effAddr, readZp16_eq]
    simp only [ofNat_add_zext16]
    rfl
  case ind => rw [resolve, indirectTarget_eq, readPair_eq]; rfl
  case rel => rw [resolve, branchTarget_eq]

end Sys2Proof.Proofs
end

section
/-! O17, O18, O20, O21: one iteration of the dispatch loop. A step that fetches an instruction completes it, abandons it
at the stack boundary, or is refused (`stepOf_cases`); what else a step can do is `dispatchStep_cases`. -/

open Sys2Proof Sys2Proof.Machine

namespace Sys2Proof.Proofs

/-! ## The end of a step -/

theorem finish_running {t : State} (h : t.run = .running) (record : TraceRecord) (n : Nat) :
    finish record n t = .next record t.diags { t with cycles := t.cycles + n } := by
  simp only [finish, h]

theorem finish_halted {t : State} {r : HaltReason} (h : t.run = .halted r) (record : TraceRecord) (n : Nat) :
    finish record n t = .halt r t := by
  simp only [finish, h]

/-- The ends of the step of a Running loop that fetched an instruction (R120): it completes, is abandoned (R75), or is
refused (R264). -/
theorem stepOf_cases {s : State} (hrun : s.run = .running) (i : Instr) :
    (∃ t, stepOf s i = .next (traceRecord s (encode i) i) t.diags t ∧ t.run = .running ∧
      t.cycles = s.cycles + i.baseCycles) ∨
    (∃ k, stepOf s i = .halt (.stackBoundary k s.pc) ((s.atHandler i.length).abandon k s.pc) ∧
      s.params.stackPolicy = .fault ∧ crossesBoundary k i.mnemonic s.sp) ∨
    (stepOf s i = .refused (.decimalArithmetic s.pc) ∧ s.refusesDecimal = true ∧
      (i.mnemonic = .adc ∨ i.mnemonic = .sbc)) := by
  unfold stepOf
  rcases exec_outcomes i (s.atHandler i.length) with ⟨t, ht⟩ | ⟨hrefused, hdecimal, hm⟩
  · have hkeeps := exec_keeps ht
    rw [ht]
    rcases hkeeps.run with hsame | ⟨k, hpolicy, hcross, rfl⟩
    · have htrun : t.run = .running := hsame.trans hrun
      have hcycles : t.cycles = s.cycles := hkeeps.cycles
      exact .inl ⟨{ t with cycles := t.cycles + i.baseCycles }, finish_running htrun _ _, htrun, by simp [hcycles]⟩
    · rw [State.opcodeAddr_atHandler]
      exact .inr (.inl ⟨k, finish_halted rfl _ _, hpolicy, hcross⟩)
  · rw [hrefused, State.opcodeAddr_atHandler]
    exact .inr (.inr ⟨rfl, hdecimal, hm⟩)

/-- Settles O20: each outcome comes from one of the cases of a step, whose condition is the one R120 lists. -/
theorem stepOutcomesAreTheListedOnes : Obligations.StepOutcomesAreTheListedOnes := by
  intro s hloaded fetched
  rcases dispatchStep_cases s with ⟨hunloaded, -⟩ | ⟨-, r, hrun, hd⟩ | ⟨-, hrun, hop, hd⟩ | ⟨-, hrun, i, hi, hd⟩
  · simp [hloaded] at hunloaded
  · rw [hd]
    exact hrun
  · rw [hd]
    exact ⟨hrun, rfl, rfl, hop, rfl⟩
  · obtain ⟨r, hr, hmnemonic⟩ := State.fetched_mnemonic hi
    rw [hd]
    rcases stepOf_cases hrun i with ⟨t, hnext, htrun, -⟩ | ⟨k, hhalt, hpolicy, hcross⟩ | ⟨hrefused, hdecimal, hm⟩
    · rw [hnext]
      exact ⟨hrun, htrun, r, hr⟩
    · rw [hhalt]
      exact ⟨hrun, rfl, hpolicy, rfl, r, hr, hmnemonic ▸ hcross⟩
    · obtain ⟨hmode, hflag⟩ := s.refusesDecimal_iff.mp hdecimal
      rw [hrefused]
      exact ⟨hrun, rfl, hmode, hflag, r, hr, hmnemonic ▸ hm⟩

/-- A step completes only an instruction it fetched, with that instruction's record and cycles (R126, R127). -/
theorem completed_of_dispatchStep {s t : State} {record : TraceRecord} {diags : List Diagnostic}
    (h : dispatchStep s = .next record diags t) :
    ∃ i : Instr, (s.fetchBytes i.length).1 = encode i ∧ record = traceRecord s (encode i) i ∧ diags = t.diags ∧
      t.cycles = s.cycles + i.baseCycles := by
  rcases dispatchStep_cases s with ⟨-, hd⟩ | ⟨-, r, -, hd⟩ | ⟨-, -, -, hd⟩ | ⟨-, hrun, i, hi, hd⟩ <;> rw [hd] at h
  case inr.inr.inr =>
    rcases stepOf_cases hrun i with ⟨u, hnext, -, hcycles⟩ | ⟨k, hhalt, -⟩ | ⟨hrefused, -⟩
    · cases hnext.symm.trans h
      exact ⟨i, hi, rfl, rfl, hcycles⟩
    · cases hhalt.symm.trans h
    · cases hrefused.symm.trans h
  all_goals cases h

/-- A step that halts counts no cycle: after an unmapped opcode as little as at the stack boundary (R127). -/
theorem cycles_of_halt {s t : State} {reason : HaltReason} (h : dispatchStep s = .halt reason t) :
    t.cycles = s.cycles := by
  rcases dispatchStep_cases s with ⟨-, hd⟩ | ⟨-, r, -, hd⟩ | ⟨-, -, -, hd⟩ | ⟨-, hrun, i, -, hd⟩ <;> rw [hd] at h
  case inr.inr.inl =>
    cases h
    rfl
  case inr.inr.inr =>
    rcases stepOf_cases hrun i with ⟨u, hnext, -⟩ | ⟨k, hhalt, -⟩ | ⟨hrefused, -⟩
    · cases hnext.symm.trans h
    · cases hhalt.symm.trans h
      rfl
    · cases hrefused.symm.trans h
  all_goals cases h

/-- Settles O21: the instruction is the one fetched, and its record is taken from the state before. -/
theorem completedStepRecordsAndCounts : Obligations.CompletedStepRecordsAndCounts := by
  intro s
  refine ⟨fun record diags t h => ?_, fun reason t h => cycles_of_halt h⟩
  obtain ⟨i, hi, rfl, hdiags, hcycles⟩ := completed_of_dispatchStep h
  exact ⟨i, rfl, rfl, rfl, hi.symm, rfl, hdiags, hcycles⟩

/-- Settles O17: bytes that decode with nothing left over are the instruction's encoding, and a step that fetches that
runs the instruction; its answer, and the run state it leaves, say which end the step has. -/
theorem stepRunsTheDecodedInstruction : Obligations.StepRunsTheDecodedInstruction := by
  intro s i hloaded hrun hdecode s'
  have hfetch : (s.fetchBytes i.length).1 = encode i := by simpa using encodeOfDecodeIsTheBytes _ _ _ hdecode
  refine ⟨?_, fun hram => ?_⟩
  · rw [step, dispatchStep_of_encode hloaded hrun hfetch, stepOf, hfetch, show s.atHandler i.length = s' from rfl]
    cases exec i s' with
    | next t =>
      cases ht : t.run with
      | running => simp only [finish_running ht, StepOutcome.toOutcome, ht]
      | halted r => simp only [finish_halted ht, StepOutcome.toOutcome, ht]
    | fault f => rfl
    | refused r => rfl
  · obtain ⟨hbytes, hdraws⟩ := State.fetchBytes_ram hram i.length
    exact ⟨by simp only [s', hdraws], hbytes⟩

/-- Settles O18: the session and the run state are looked at before anything is fetched. -/
theorem haltedStepChangesNothing : Obligations.HaltedStepChangesNothing := by
  intro s
  refine ⟨fun hloaded r hrun => ?_, fun hunloaded => ?_⟩
  · have hd : dispatchStep s = .halted r := by simp [dispatchStep, hloaded, hrun]
    exact ⟨hd, by rw [step, hd, StepOutcome.toOutcome]⟩
  · have hd : dispatchStep s = .refused .notLoaded := by simp [dispatchStep, hunloaded]
    rw [step, hd, StepOutcome.toOutcome]

end Sys2Proof.Proofs
end

section
/-! O59: stop and `run_until`. Inductions follow the loop (`runSteps`): what it returns for, and that a run of a loaded
machine which used up its bound goes on from the state it left. -/

open Sys2Proof Sys2Proof.Machine

namespace Sys2Proof.Proofs

theorem stop_running {s : State} (h : s.run = .running) :
    s.stop = { s with
      run := .halted .stopped, verifier := s.verifier.map fun w => w.engineHalted .stopped } := by
  simp only [State.stop, h]
  rfl

theorem stop_halted {s : State} {r : HaltReason} (h : s.run = .halted r) : s.stop = s := by
  simp only [State.stop, h]

theorem loaded_of_step {s t : State} (h : step s = .next t) : t.loaded = s.loaded :=
  (stepKeepsTheParameters s t h).2.1

/-- The state a run leaves shows the reason it returned for (R131). -/
def ShowsReason (pred : State → Bool) : RunOutcome → Prop
  | .halted r t => t.run = .halted r
  | .predicateMet t => pred t = true ∧ t.run = .running
  | .verifyDone v t => v ≠ .comparing ∧ ∃ w, t.verifier = some w ∧ w.status = v
  | .fault _ | .refused _ | .unfinished _ => True

section loop

variable (pred : State → Bool) (n : Nat) (s : State)

theorem runSteps_showsReason : ShowsReason pred (runSteps pred n s) := by
  fun_induction runSteps pred n s with
  | case1 | case4 | case5 => trivial
  | case2 n s r hrun => exact hrun
  | case3 n s hrun hpred => exact ⟨hpred, hrun⟩
  | case6 n s hrun hpred t hstep v hdone => exact State.verifyDone?_some hdone
  | case7 n s hrun hpred t hstep hdone ih => exact ih

theorem runUntil_showsReason : ShowsReason pred (runUntil pred n s) := by
  unfold runUntil
  split
  · exact runSteps_showsReason pred n s
  · trivial

end loop

/-- A run whose bound was used up is cut at the state it left (R132). -/
theorem runSteps_of_unfinished {pred : State → Bool} {n : Nat} {s t : State} (m : Nat)
    (h : runSteps pred n s = .unfinished t) :
    t.loaded = s.loaded ∧ runSteps pred (n + m) s = runSteps pred m t := by
  fun_induction runSteps pred n s with
  | case1 s =>
    cases h
    exact ⟨rfl, by rw [Nat.zero_add]⟩
  | case7 n s hrun hpred u hstep hdone ih =>
    obtain ⟨hloaded, hrest⟩ := ih h
    refine ⟨hloaded.trans (loaded_of_step hstep), ?_⟩
    rw [Nat.succ_add, ← hrest]
    simp [runSteps, hrun, hpred, hstep, hdone]
  | case2 | case3 | case4 | case5 | case6 => cases h

theorem runUntil_of_unfinished {pred : State → Bool} {n : Nat} {s t : State} (m : Nat)
    (h : runUntil pred n s = .unfinished t) : runUntil pred (n + m) s = runUntil pred m t := by
  cases hloaded : s.loaded with
  | false =>
    rw [runUntil_unloaded hloaded] at h
    cases h
  | true =>
    rw [runUntil_loaded hloaded] at h
    obtain ⟨ht, hrest⟩ := runSteps_of_unfinished m h
    rw [runUntil_loaded hloaded, hrest, runUntil_loaded (ht.trans hloaded)]

/-- Settles O59: the turns of the loop one by one, where a step keeps the session so that going on is a run; the reasons
are those the state shows. -/
theorem stopAndRunUntil : Obligations.StopAndRunUntil := by
  intro pred n m s
  have hreason := runUntil_showsReason pred n s
  refine ⟨stop_running, fun _ => stop_halted, runUntil_unloaded, fun hloaded => ⟨?bound, ?halted, ?met, ?turn⟩,
    fun t h => ?_, fun r t h => ?_, fun v t h => ?_, fun t => runUntil_of_unfinished m⟩
  case bound => rw [runUntil_loaded hloaded, runSteps]
  case halted =>
    intro r hrun
    simp only [runUntil_loaded hloaded, runSteps, hrun]
  case met =>
    intro hrun hpred
    simp [runUntil_loaded hloaded, runSteps, hrun, hpred]
  case turn =>
    intro hrun hpred
    simp only [runUntil_loaded hloaded, runSteps, hrun, hpred]
    cases hstep : step s with
    | next t =>
      have hgoesOn : runUntil pred n t = runSteps pred n t := runUntil_loaded ((loaded_of_step hstep).trans hloaded)
      cases hdone : t.verifyDone? with
      | none => simp [hdone, hgoesOn]
      | some v => simp [hdone]
    | fault f => rfl
    | refused r => rfl
  all_goals
    rw [h] at hreason
    exact hreason

end Sys2Proof.Proofs
end

section
/-! O42: the branches. Each is one conditional jump (`branchIf`) whose condition says that its flag has its value. -/

open Sys2Proof Sys2Proof.Machine

namespace Sys2Proof.Proofs

/-- The branches, each with the flag it tests and the value it is taken on (R141 to R148). -/
def branches : List (Mnemonic × StatusFlag × Bool) :=
  [(.bpl, .n, false), (.bmi, .n, true), (.bvc, .v, false), (.bvs, .v, true), (.bcc, .c, false), (.bcs, .c, true),
    (.bne, .z, false), (.beq, .z, true)]

theorem branches_modes : ∀ e ∈ branches, e.1.modes = [.rel] := by decide

theorem form_of_relative {i : Instr} (h : i.mnemonic.modes = [.rel]) : ∃ off, i.form = .rel off := by
  have hmode : i.form.mode = .rel := by simpa [h] using mode_mem_modes i
  cases hform : i.form with
  | rel off => exact ⟨off, rfl⟩
  | mem m => cases m <;> simp [hform, Form.mode, MemForm.mode] at hmode
  | imp | acc | imm _ | ind _ => simp [hform, Form.mode] at hmode

/-- A branch jumps on its flag having its value (R140). -/
theorem execOf_branch {m : Mnemonic} {f : StatusFlag} {b : Bool} (h : (m, f, b) ∈ branches) (off : Byte) (s : State) :
    execOf m (.rel off) s = branchIf (s.flag f == b) off s := by
  fin_cases h <;> simp only [execOf, withOffset, beq_false, beq_true]

/-- A branch in numbers: it leaves all but PC as it was (R99, R140). -/
theorem branchIf_beq (v b : Bool) (off : Byte) (s : State) :
    branchIf (v == b) off s =
      .next { s with pc := if v = b then BitVec.ofInt 16 (s.pc.toNat + off.toInt) else s.pc } := by
  simp only [branchIf, beq_iff_eq, branchTarget_eq]

/-- Settles O42: a branch has the relative form only, and its condition is the test of its flag. -/
theorem branchesTestOneFlag : Obligations.BranchesTestOneFlag := by
  intro i f b hbranch
  obtain ⟨off, hform⟩ := form_of_relative (branches_modes _ hbranch)
  refine ⟨instr_encodedAsListed i, off, hform, fun s => ?_⟩
  rw [exec_eq_execOf, hform, execOf_branch hbranch, branchIf_beq]

end Sys2Proof.Proofs
end

section
/-! O43 to O48: jumps, subroutines, BRK and RTI. Where no push or pop faults, an instruction leaves the closed form of
Laws/Stack, whose bytes are read back here; where one does, it is abandoned (`exec_of_crossesBoundary`). -/

open Sys2Proof Sys2Proof.Machine

namespace Sys2Proof.Proofs

/-! ## Jumps -/

theorem jmp_cases {i : Instr} (h : i.mnemonic = .jmp) : (∃ a, i = .jmpAbs a) ∨ ∃ p, i = .jmpInd p := by
  have hmode : i.form.mode = .abs ∨ i.form.mode = .ind := by simpa [h, Mnemonic.modes] using mode_mem_modes i
  cases hform : i.form with
  | mem m =>
    cases m with
    | abs a => exact .inl ⟨a, instr_ext h hform⟩
    | _ => simp [hform, Form.mode, MemForm.mode] at hmode
  | ind p => exact .inr ⟨p, instr_ext h hform⟩
  | imp | acc | imm _ | rel _ => simp [hform, Form.mode] at hmode

/-- Settles O43: the indirect target is two reads, which change nothing but the count of draws. -/
theorem jumpsTakeTheTarget : Obligations.JumpsTakeTheTarget := by
  refine ⟨fun i h => ⟨instr_encodedAsListed i, jmp_cases h⟩, fun s a => ⟨rfl, ?_⟩⟩
  show jumpTo (indirectTarget a s) = _
  rw [indirectTarget_eq, readPair_eq]
  rfl

/-! ## The stack operations in numbers -/

theorem stackCell_congr {j k : Nat} (h : j % 256 = k % 256) : stackCell j = stackCell k := by
  rw [stackCell, stackCell, h]

/-- The diagnostic of `n` pops, by the S they start at (R74). -/
theorem wrapDiag_pops {n m : Nat} (h : n + m = 256) (sp : Nat) (a0 : Word) :
    wrapDiag (255 < sp + n) .pop a0 = wrapDiag (m ≤ sp) .pop a0 := by
  rw [decide_eq_decide.mpr (by omega : 255 < sp + n ↔ m ≤ sp)]

/-- A return address in numbers: what RTS makes of the two bytes it pops (R152). -/
theorem joinBytes_add_one (lo hi : Byte) : joinBytes lo hi + 1 = BitVec.ofNat 16 (lo.toNat + 256 * hi.toNat + 1) := by
  rw [joinBytes_eq]
  exact (BitVec.ofNat_add _ 1).symm

/-- Memory as a push leaves it: one byte stored to a cell of the stack page (R71). -/
def stackStore (s : State) (k : Nat) (v : Byte) : State :=
  { s with mem := Memory.write s.mem (stackCell k).toNat v }

/-- Memory as a 16-bit push leaves it: the high byte stored first, the low byte below it (R76). -/
def stackStoreWord (s : State) (k : Nat) (v : Word) : State :=
  stackStore (stackStore s k (hiByte v)) (k + 255) (loByte v)

section store

variable (s : State)

theorem peek_stackStore (k : Nat) (v : Byte) (b : Word) :
    (stackStore s k v).peek b = if canon b = stackCell k then v else s.peek b :=
  Memory.read_write_stackCell s.mem k v b

theorem peek_stackStore_same (k : Nat) (v : Byte) : (stackStore s k v).peek (stackCell k) = v := by
  rw [peek_stackStore, canon_stackCell, if_pos rfl]

theorem peek_stackStore_other {k : Nat} (v : Byte) {b : Word} (h : canon b ≠ stackCell k) :
    (stackStore s k v).peek b = s.peek b := by
  rw [peek_stackStore, if_neg h]

theorem peek_stackStore_stackCell {j k : Nat} (v : Byte) (h : j % 256 ≠ k % 256) :
    (stackStore s k v).peek (stackCell j) = s.peek (stackCell j) :=
  peek_stackStore_other s v (by rw [canon_stackCell]; exact stackCell_ne h)

/-- The two cells of a 16-bit push are not one, and all others are as they were (R76). -/
theorem peek_stackStoreWord (k : Nat) (v : Word) :
    let t := stackStoreWord s k v
    t.peek (stackCell k) = BitVec.ofNat 8 (v.toNat / 256) ∧
      t.peek (stackCell (k + 255)) = BitVec.ofNat 8 v.toNat ∧
      ∀ b, canon b ≠ stackCell k → canon b ≠ stackCell (k + 255) → t.peek b = s.peek b := by
  unfold stackStoreWord
  refine ⟨?_, ?_, fun b hhigh hlow => ?_⟩
  · rw [peek_stackStore_stackCell _ _ (by omega), peek_stackStore_same, hiByte_eq]
  · rw [peek_stackStore_same, loByte_eq]
  · rw [peek_stackStore_other _ _ hlow, peek_stackStore_other _ _ hhigh]

end store

/-! ## Subroutines -/

/-- Settles O44: two pushes and a jump, or abandoned where S is too low for two. -/
theorem jsrPushesTheReturnAddress : Obligations.JsrPushesTheReturnAddress := by
  intro a s
  refine ⟨instr_encodedAsListed _, fun hpolicy hsp => ?_, fun hroom => ?_⟩
  · exact exec_of_crossesBoundary hpolicy ⟨2, .inl ⟨rfl, by simp [Instr.mnemonic], hsp⟩⟩
  · have hexec : exec (.jsr a) s = .next _ :=
      congrArg (s.settle (s.opcodeAddr 3)) (State.callSubroutine_next hroom (s.opcodeAddr 3) a)
    refine ⟨_, hexec, ?_, peek_stackStoreWord s s.sp.toNat (s.pc - 1)⟩
    rw [show s.sp - 2 = _ from sp_sub_eq s.sp 2 (by decide)]
    rfl

/-- Settles O45: two pops and a return, or abandoned where S is too high for two. -/
theorem rtsReturns : Obligations.RtsReturns := by
  refine ⟨instr_encodedAsListed _, fun s => ⟨fun hpolicy hsp => ?_, fun hroom => ?_⟩⟩
  · exact exec_of_crossesBoundary hpolicy ⟨2, .inr ⟨rfl, by decide, hsp⟩⟩
  · have hexec : exec .rts s = .next _ :=
      congrArg (s.settle (s.opcodeAddr 1)) (State.returnFromSubroutine_next hroom (s.opcodeAddr 1))
    rw [hexec, show s.sp + 2 = _ from sp_add_eq s.sp 2, wrapDiag_pops (m := 254) rfl, joinBytes_add_one]
    rfl

/-- Settles O48: S is back two below where JSR found it, so RTS pops the two bytes JSR pushed, and adds the 1 that JSR
took off. -/
theorem rtsUndoesJsr : Obligations.RtsUndoesJsr := by
  intro a s t u hroom hjsr hparams hsp hhigh hlow
  obtain ⟨t', hexec, ht, hpushedHigh, hpushedLow, -⟩ := (jsrPushesTheReturnAddress a s).2.2 hroom
  cases hexec.symm.trans hjsr
  have htsp : t.sp = BitVec.ofNat 8 (s.sp.toNat + 254) := congrArg State.sp ht
  have husp : u.sp.toNat = (s.sp.toNat + 254) % 256 := by rw [hsp, htsp, BitVec.toNat_ofNat]
  have hs := s.sp.isLt
  have hreturn := (rtsReturns.2 u).2 (hparams ▸ hroom.imp_right (by omega))
  rw [stackCell_congr (by omega : (u.sp.toNat + 1) % 256 = (s.sp.toNat + 255) % 256),
    stackCell_congr (by omega : (u.sp.toNat + 2) % 256 = s.sp.toNat % 256), hlow, hhigh, hpushedLow, hpushedHigh,
    ← loByte_eq, ← hiByte_eq] at hreturn
  have hpc : BitVec.ofNat 16 ((loByte (s.pc - 1)).toNat + 256 * (hiByte (s.pc - 1)).toNat + 1) = s.pc := by
    rw [← joinBytes_add_one, joinBytes_lo_hi, BitVec.sub_add_cancel]
  refine ⟨congrArg State.pc ht, _, hreturn, hpc, ?_⟩
  apply BitVec.eq_of_toNat_eq
  rw [BitVec.toNat_ofNat]
  omega

/-! ## BRK and RTI -/

/-- Settles O46: a 16-bit push, then one of P below it, and the two reads of the vector, or abandoned where S is too low
for three. -/
theorem brkTakesTheVector : Obligations.BrkTakesTheVector := by
  refine ⟨instr_encodedAsListed _, fun s => ⟨fun hpolicy hsp => ?_, fun hroom => ?_⟩⟩
  · exact exec_of_crossesBoundary hpolicy ⟨3, .inl ⟨rfl, by decide, hsp⟩⟩
  · have hexec : exec .brk s = .next _ :=
      congrArg (s.settle (s.opcodeAddr 1)) (State.takeBreak_next hroom (s.opcodeAddr 1))
    obtain ⟨hhigh, hlow, hframe⟩ := peek_stackStoreWord s s.sp.toNat (s.pc + 1)
    refine ⟨_, hexec, ?next, setFlag_only .i true s.p, (peek_stackStore_stackCell _ _ (by omega)).trans hhigh,
      (peek_stackStore_stackCell _ _ (by omega)).trans hlow, ?status,
      fun b hb hb' hb'' => (peek_stackStore_other _ _ hb'').trans (hframe b hb hb')⟩
    case next =>
      rw [show s.sp - 3 = _ from sp_sub_eq s.sp 3 (by decide), joinBytes_eq]
      rfl
    case status =>
      exact peek_stackStore_same (stackStoreWord s s.sp.toNat (s.pc + 1)) (s.sp.toNat + 254) (pushedStatus s.p)

/-- Settles O47: a pop of P and a 16-bit pop of PC, or abandoned where S is too high for three. -/
theorem rtiRestoresStatusAndPc : Obligations.RtiRestoresStatusAndPc := by
  refine ⟨instr_encodedAsListed _, fun s => ⟨fun hpolicy hsp => ?_, fun hroom => ?_⟩⟩
  · exact exec_of_crossesBoundary hpolicy ⟨3, .inr ⟨rfl, by decide, hsp⟩⟩
  · have hexec : exec .rti s = .next _ :=
      congrArg (s.settle (s.opcodeAddr 1)) (State.returnFromBreak_next hroom (s.opcodeAddr 1))
    rw [hexec, show s.sp + 3 = _ from sp_add_eq s.sp 3, wrapDiag_pops (m := 253) rfl, joinBytes_eq]
    rfl

end Sys2Proof.Proofs
end

section
/-! O24 and O25: the loads and the stores. The table gives a load a source, and a store an effective address, in every
form, so each is the one meaning of Laws/Exec that its register names. -/

open Sys2Proof Sys2Proof.Machine

namespace Sys2Proof.Proofs

theorem withSource_some {f : Form} {src : Source} (h : f.source? = some src) (g : Source → Result) (s : State) :
    withSource f g s = g src := by
  rw [withSource, h]

theorem withMem_some {f : Form} {m : MemForm} (h : f.memForm? = some m) (g : MemForm → Result) (s : State) :
    withMem f g s = g m := by
  rw [withMem, h]

/-- Settles O24: a load writes its register and, through `SetNZ`, the status; the read of its operand counts draws. -/
theorem loadsTakeTheOperand : Obligations.LoadsTakeTheOperand := by
  intro i hi
  obtain ⟨src, hsrc⟩ := source_of_wf (Laws.instr_wf i) (by rcases hi with h | h | h <;> simp [h])
  refine ⟨instr_encodedAsListed i, src, hsrc, fun s => ?_⟩
  rw [exec_eq_execOf]
  rcases hi with h | h | h <;> rw [h, execOf, withSource_some hsrc]
  · exact ⟨_, lda_eq src s, fun _ => rfl, nofun, nofun, setNZ_only _ _, fun _ => rfl⟩
  · exact ⟨_, ldx_eq src s, nofun, fun _ => rfl, nofun, setNZ_only _ _, fun _ => rfl⟩
  · exact ⟨_, ldy_eq src s, nofun, nofun, fun _ => rfl, setNZ_only _ _, fun _ => rfl⟩

/-- Settles O25: a store is one write to the cell of its effective address, of the register its mnemonic names. -/
theorem storesWriteTheRegister : Obligations.StoresWriteTheRegister := by
  intro i hi
  obtain ⟨m, hm⟩ := memForm_of_wf (Laws.instr_wf i) (by rcases hi with h | h | h <;> simp [h])
  refine ⟨instr_encodedAsListed i, m, hm, fun s => ?_⟩
  rw [exec_eq_execOf]
  rcases hi with h | h | h <;> rw [h, execOf, withMem_some hm]
  · exact ⟨_, store_eq m s.a s, rfl, fun _ => stores_of_memWrite rfl rfl, nofun, nofun⟩
  · exact ⟨_, store_eq m s.x s, rfl, nofun, fun _ => stores_of_memWrite rfl rfl, nofun⟩
  · exact ⟨_, store_eq m s.y s, rfl, nofun, nofun, fun _ => stores_of_memWrite rfl rfl⟩

end Sys2Proof.Proofs
end

section
/-! O40 and O41: the flag instructions and NOP. Each flag instruction is one `writeFlag`; NOP is no write at all, so its
step is the fetch of one byte and the count of its cycles. -/

open Sys2Proof Sys2Proof.Machine

namespace Sys2Proof.Proofs

/-! ## The flag instructions -/

/-- The flag instructions, each with the flag it writes and the value it writes to it (R170 to R176). -/
def flagWrites : List (Instr × StatusFlag × Bool) :=
  [(.clc, .c, false), (.sec, .c, true), (.cli, .i, false), (.sei, .i, true), (.clv, .v, false), (.cld, .d, false),
    (.sed, .d, true)]

/-- A flag instruction writes its value to its flag (R170 to R176). -/
theorem exec_flagWrite {i : Instr} {f : StatusFlag} {b : Bool} (h : (i, f, b) ∈ flagWrites) (s : State) :
    exec i s = writeFlag f b s := by
  rw [exec_eq_execOf]
  fin_cases h <;> simp only [Instr.mnemonic, execOf]

/-- Settles O40: a flag instruction changes P alone, and in it the one flag. -/
theorem flagInstructionsWriteOneFlag : Obligations.FlagInstructionsWriteOneFlag := fun i f b h =>
  ⟨instr_encodedAsListed i, fun s => ⟨_, exec_flagWrite h s, rfl, setFlag_only f b s.p, fun _ => rfl⟩⟩

/-! ## NOP -/

/-- A step that fetches an instruction and stays Running completes it: the record is of the state before, and the
instruction's cycles are counted (R121, R126, R127). -/
theorem dispatchStep_of_exec {s t : State} {i : Instr} (hloaded : s.loaded = true) (hrun : s.run = .running)
    (hfetch : (s.fetchBytes i.length).1 = encode i) (hexec : exec i (s.atHandler i.length) = .next t)
    (ht : t.run = .running) :
    dispatchStep s = .next (traceRecord s (encode i) i) t.diags { t with cycles := t.cycles + i.baseCycles } := by
  rw [dispatchStep_of_encode hloaded hrun hfetch, stepOf, hexec]
  exact finish_running ht _ _

/-- The record of a NOP at 0xC000 on the other values R177 names has the line it gives. -/
theorem formatLine_nop {s : State} (hpc : s.pc = 0xC000) (ha : s.a = 0) (hx : s.x = 0) (hy : s.y = 0) (hp : s.p = 0x24)
    (hsp : s.sp = 0xFD) :
    formatLine (traceRecord s (encode .nop) .nop) =
      "C000  EA        NOP                             A:00 X:00 Y:00 P:24 SP:FD".toList := by
  rw [traceRecord, hpc, ha, hx, hy, hp, hsp]
  decide

/-- Settles O41: the handler answers the state it is handed: PC past the one byte read, and no diagnostics. -/
theorem nopOnlyMovesPc : Obligations.NopOnlyMovesPc := by
  refine ⟨instr_encodedAsListed _, fun s => rfl, fun s hloaded hrun hop => ?_⟩
  have hfetch : (s.fetchBytes Instr.nop.length).1 = encode .nop := congrArg ([·]) hop
  exact ⟨_, dispatchStep_of_exec hloaded hrun hfetch rfl hrun, formatLine_nop⟩

end Sys2Proof.Proofs
end

section
/-! O26, O27, O28: ADC and SBC. Each is refused (R264) or completes in the equation of Laws/Exec. SBC computes the sum
with the complement, whose two's-complement reading is minus the operand's less 1, so the laws of R191 are facts about one
sum. -/

open Sys2Proof Sys2Proof.Machine

namespace Sys2Proof.Proofs

/-! ## The two meanings -/

theorem sourceLength_eq {i : Instr} {src : Source} (h : i.form.source? = some src) : sourceLength src = i.length := by
  rw [sourceLength, Instr.length, Form.source?_eq h]

theorem exec_adc {i : Instr} {src : Source} (hi : i.mnemonic = .adc) (hsrc : i.form.source? = some src) (s : State) :
    exec i s = adc src s := by
  rw [exec_eq_execOf, hi, execOf, withSource_some hsrc]

theorem exec_sbc {i : Instr} {src : Source} (hi : i.mnemonic = .sbc) (hsrc : i.form.source? = some src) (s : State) :
    exec i s = sbc src s := by
  rw [exec_eq_execOf, hi, execOf, withSource_some hsrc]

theorem adc_refused (src : Source) {s : State} (h : s.refusesDecimal = true) :
    adc src s = .refused (.decimalArithmetic (s.opcodeAddr (sourceLength src))) := if_pos h

theorem sbc_refused (src : Source) {s : State} (h : s.refusesDecimal = true) :
    sbc src s = .refused (.decimalArithmetic (s.opcodeAddr (sourceLength src))) := if_pos h

/-! ## The flags of a sum -/

@[simp] theorem getFlag_v_addFlags (r : AluResult) (p : Byte) : getFlag .v (addFlags r p) = r.overflow := by
  simp [addFlags, setNZ]

@[simp] theorem getFlag_c_addFlags (r : AluResult) (p : Byte) : getFlag .c (addFlags r p) = r.carry := by
  simp [addFlags, setNZ]

/-- ADC and SBC write the flags of their sum, in the formulas of R181. -/
theorem addCarry_writes (a m : Byte) (c : Bool) (p : Byte) :
    let sum := a.toNat + m.toNat + c.toNat
    let r := BitVec.ofNat 8 sum
    WritesFlags p (addFlags (addCarry a m c) p)
      ((.c, 0xFF < sum) :: (.v, ((a ^^^ r) &&& (m ^^^ r) &&& 0x80#8) ≠ 0#8) :: nzOf r) := by
  intro sum r
  have hv : (addCarry a m c).overflow = decide (((a ^^^ r) &&& (m ^^^ r) &&& 0x80#8) ≠ 0#8) := (decide_not ..).symm
  rw [← hv]
  refine (addFlags_writes (addCarry a m c) p).congr fun x => ?_
  exact (List.perm_append_comm (l₁ := [(StatusFlag.c, _), (StatusFlag.v, _)])).mem_iff.trans
    (List.Perm.append_left (nzOf r) (List.Perm.swap ..)).mem_iff

/-- Settles O26: ADC is the sum of A, the operand and C, and its flags are those of that sum. -/
theorem adcAddsWithCarry : Obligations.AdcAddsWithCarry := by
  intro i hi
  obtain ⟨src, hsrc⟩ := source_of_wf (Laws.instr_wf i) (by simp [hi])
  refine ⟨instr_encodedAsListed i, src, hsrc, fun s => ⟨fun hd => ?_, fun hd => ?_⟩⟩
  · rw [exec_adc hi hsrc, adc_refused src (s.refusesDecimal_iff.mpr hd), sourceLength_eq hsrc, State.opcodeAddr]
  · have hexec := (exec_adc hi hsrc s).trans (adc_eq src (State.refusesDecimal_false hd))
    exact ⟨_, hexec, rfl, addCarry_writes _ _ _ _, fun _ => rfl⟩

/-- Settles O27: SBC is the sum of A, the complement of the operand and C. -/
theorem sbcSubtractsWithBorrow : Obligations.SbcSubtractsWithBorrow := by
  intro i hi
  obtain ⟨src, hsrc⟩ := source_of_wf (Laws.instr_wf i) (by simp [hi])
  refine ⟨instr_encodedAsListed i, src, hsrc, fun s => ⟨fun hd => ?_, fun hd => ?_⟩⟩
  · rw [exec_sbc hi hsrc, sbc_refused src (s.refusesDecimal_iff.mpr hd), sourceLength_eq hsrc, State.opcodeAddr]
  · have hexec := (exec_sbc hi hsrc s).trans (sbc_eq src (State.refusesDecimal_false hd))
    exact ⟨_, hexec, rfl, addCarry_writes _ _ _ _, fun _ => rfl⟩

/-! ## The overflow and carry laws (R191) -/

/-- Bit 7 says which half of the unsigned range a byte lies in. -/
theorem getLsbD_seven (b : Byte) : b.getLsbD 7 = decide (128 ≤ b.toNat) :=
  b.msb_eq_getLsbD_last.symm.trans b.msb_eq_decide

/-- Masking with 0x80 leaves a byte that is zero exactly where bit 7 is. -/
theorem and_0x80_ne_zero_iff (b : Byte) : b &&& 0x80#8 ≠ 0#8 ↔ b.getLsbD 7 = true := by
  rw [show 0x80#8 = BitVec.twoPow 8 7 from rfl, BitVec.and_twoPow]
  cases b.getLsbD 7 <;> simp

section sum

variable (a m : Byte) (c : Bool)

/-- V of a sum, by signs: the operands agree in bit 7 and the result does not. -/
theorem addCarry_overflow_iff_signs :
    (addCarry a m c).overflow = true ↔
      a.getLsbD 7 = m.getLsbD 7 ∧ (addCarry a m c).value.getLsbD 7 ≠ a.getLsbD 7 := by
  show ((_ &&& 0x80#8) != 0#8) = true ↔ _
  rw [bne_iff_ne, and_0x80_ne_zero_iff, BitVec.getLsbD_and, BitVec.getLsbD_xor, BitVec.getLsbD_xor]
  show ((_ ^^ (addCarry a m c).value.getLsbD 7) && (_ ^^ (addCarry a m c).value.getLsbD 7)) = true ↔ _
  cases a.getLsbD 7 <;> cases m.getLsbD 7 <;> simp

/-- V of a sum, by readings: the sum of the two's-complement readings and C is out of range. -/
theorem addCarry_overflow_iff_range :
    (addCarry a m c).overflow = true ↔
      a.toInt + m.toInt + c.toNat < -128 ∨ 127 < a.toInt + m.toInt + c.toNat := by
  have hr : (addCarry a m c).value.toNat = (a.toNat + m.toNat + c.toNat) % 256 := BitVec.toNat_ofNat ..
  rw [addCarry_overflow_iff_signs, getLsbD_seven, getLsbD_seven, getLsbD_seven, hr, BitVec.toInt_eq_toNat_cond,
    BitVec.toInt_eq_toNat_cond]
  have ha := a.isLt
  have hm := m.isLt
  have hc := c.toNat_le
  simp only [decide_eq_decide, ne_eq]
  omega

theorem addCarry_carry_iff : (addCarry a m c).carry = true ↔ 256 ≤ a.toNat + m.toNat + c.toNat := decide_eq_true_iff

theorem subBorrow_eq : subBorrow a m c = addCarry a (~~~m) c := by
  rw [subBorrow, ← BitVec.xor_allOnes]
  rfl

/-- V of a difference: the signed difference less the borrow is out of range. -/
theorem subBorrow_overflow_iff_range :
    (subBorrow a m c).overflow = true ↔
      a.toInt - m.toInt - (1 - (c.toNat : Int)) < -128 ∨ 127 < a.toInt - m.toInt - (1 - (c.toNat : Int)) := by
  have hnot : (~~~m).toInt = -1 - m.toInt := by
    rw [BitVec.toInt_eq_toNat_cond, BitVec.toInt_eq_toNat_cond, BitVec.toNat_not]
    have hm := m.isLt
    omega
  rw [subBorrow_eq, addCarry_overflow_iff_range, hnot]
  omega

/-- C of a difference: no borrow. -/
theorem subBorrow_carry_iff : (subBorrow a m c).carry = true ↔ m.toNat + (1 - c.toNat) ≤ a.toNat := by
  rw [subBorrow_eq, addCarry_carry_iff, BitVec.toNat_not]
  have hm := m.isLt
  have hc := c.toNat_le
  omega

end sum

/-- Settles O28: V and C of the state after are those of the sum or the difference, whose laws these are. -/
theorem overflowAndCarryLaws : Obligations.OverflowAndCarryLaws := by
  intro i src s t hsrc h
  refine ⟨fun hi => ?_, fun hi => ?_⟩
  · rw [exec_adc hi hsrc] at h
    cases hd : s.refusesDecimal with
    | true =>
      rw [adc_refused src hd] at h
      cases h
    | false =>
      rw [adc_eq src hd] at h
      cases h
      simp only [State.flag, getFlag_v_addFlags, getFlag_c_addFlags]
      exact ⟨addCarry_overflow_iff_range .., addCarry_overflow_iff_signs .., addCarry_carry_iff ..⟩
  · rw [exec_sbc hi hsrc] at h
    cases hd : s.refusesDecimal with
    | true =>
      rw [sbc_refused src hd] at h
      cases h
    | false =>
      rw [sbc_eq src hd] at h
      cases h
      simp only [State.flag, getFlag_v_addFlags, getFlag_c_addFlags]
      exact ⟨subBorrow_overflow_iff_range .., subBorrow_carry_iff ..⟩

end Sys2Proof.Proofs
end

section
/-! O30, O31, O32: the logic instructions, the compares and BIT. Each has a source in every form and is one meaning of
Laws/Exec; what is left is its flags in the terms of the rules. -/

open Sys2Proof Sys2Proof.Machine

namespace Sys2Proof.Proofs

/-- Settles O30: A becomes the combination of A with the operand, and `SetNZ` writes the status from it. -/
theorem logicCombinesBitByBit : Obligations.LogicCombinesBitByBit := by
  intro i hi
  obtain ⟨src, hsrc⟩ := source_of_wf (Laws.instr_wf i) (by rcases hi with h | h | h <;> simp [h])
  refine ⟨instr_encodedAsListed i, src, hsrc, fun s => ?_⟩
  rw [exec_eq_execOf]
  rcases hi with h | h | h <;> rw [h, execOf, withSource_some hsrc]
  · exact ⟨_, logicA_eq _ src s, rfl, fun k => BitVec.getLsbD_and, setNZ_only _ _, fun _ => rfl⟩
  · exact ⟨_, logicA_eq _ src s, rfl, fun k => BitVec.getLsbD_or, setNZ_only _ _, fun _ => rfl⟩
  · exact ⟨_, logicA_eq _ src s, rfl, fun k => BitVec.getLsbD_xor, setNZ_only _ _, fun _ => rfl⟩

/-- The flags of a compare in numbers: the wrapped difference is zero exactly when the two are equal (R186). -/
theorem compareFlags_writes_numbers (r m p : Byte) :
    WritesFlags p (compareFlags r m p)
      [(.c, m.toNat ≤ r.toNat), (.z, r = m), (.n, 128 ≤ (r.toNat + 256 - m.toNat) % 256)] := by
  have hdiff : (r - m).toNat = (r.toNat + 256 - m.toNat) % 256 := by
    have := m.isLt
    rw [BitVec.toNat_sub]
    omega
  have hz : (r - m).toNat = 0 ↔ r = m := by
    rw [hdiff, ← BitVec.toNat_inj]
    have hr := r.isLt
    have hm := m.isLt
    omega
  refine (compareFlags_writes r m p).congr fun x => ?_
  rw [nzOf, decide_eq_decide.mpr hz, hdiff]
  exact (List.perm_append_comm (l₁ := [(StatusFlag.c, _)])).mem_iff

/-- Settles O31: each compare is the one meaning with its register, whose flags are known in numbers. -/
theorem comparesWriteNZC : Obligations.ComparesWriteNZC := by
  intro i hi
  obtain ⟨src, hsrc⟩ := source_of_wf (Laws.instr_wf i) (by rcases hi with h | h | h <;> simp [h])
  refine ⟨instr_encodedAsListed i, src, hsrc, fun s => ?_⟩
  rw [exec_eq_execOf]
  rcases hi with h | h | h <;> rw [h, execOf, withSource_some hsrc] <;>
    exact ⟨_, compareWith_eq _ src s, rfl, compareFlags_writes_numbers _ _ _, fun _ => rfl⟩

/-- Settles O32: BIT counts draws and writes P, in which N and V are bits 7 and 6 of the operand itself. -/
theorem bitTestsTheOperand : Obligations.BitTestsTheOperand := by
  intro i hi
  obtain ⟨src, hsrc⟩ := source_of_wf (Laws.instr_wf i) (by simp [hi])
  refine ⟨instr_encodedAsListed i, src, hsrc, fun s => ?_⟩
  rw [exec_eq_execOf, hi, execOf, withSource_some hsrc]
  refine ⟨_, bitTest_eq src s, rfl, (bitFlags_writes _ _ _).congr fun x => ?_, fun _ => rfl⟩
  exact (List.reverse_perm [(StatusFlag.v, _), (.n, _), (.z, _)]).mem_iff

end Sys2Proof.Proofs
end

section
/-! O33, O34, O35: the shifts and rotates, INC and DEC, and the increments and decrements of X and Y. Each is one shared
meaning of ShiftIncDec, which writes one result back to its place; what is left is that result in numbers. -/

open Sys2Proof Sys2Proof.Machine Sys2Proof.Claims

namespace Sys2Proof.Proofs

/-! ## The shifts and rotates -/

/-- `op` makes of a byte and the old carry the number and the bit of the mnemonic's rule (R200 to R203). -/
def ShiftsAs (op : Byte → Bool → ShiftResult) (m : Mnemonic) : Prop :=
  ∀ v c, shiftedTo m v.toNat c.toNat = some ((op v c).value.toNat, (op v c).carry)

theorem getLsbD_zero_eq_odd (v : Byte) : v.getLsbD 0 = decide (v.toNat % 2 = 1) := by
  rw [BitVec.getLsbD, Nat.testBit_zero]

theorem toNat_shiftLeft_one (v : Byte) : (v <<< 1).toNat = 2 * v.toNat % 256 := by
  rw [BitVec.toNat_shiftLeft, Nat.shiftLeft_eq, Nat.mul_comm]

theorem toNat_shiftRight_one (v : Byte) : (v >>> 1).toNat = v.toNat / 2 := by
  rw [BitVec.toNat_ushiftRight, Nat.shiftRight_eq_div_pow]

/-- The old carry enters the empty bit 0 as a summand. -/
theorem toNat_rotateLeft (v : Byte) (c : Bool) : (rotateLeft v c).value.toNat = (2 * v.toNat + c.toNat) % 256 := by
  have hempty : v <<< 1 &&& (BitVec.ofBool c).setWidth 8 = 0#8 := by
    ext k hk
    by_cases h : k = 0 <;> simp [h]
  show (v <<< 1 ||| _).toNat = _
  rw [← BitVec.add_eq_or_of_and_eq_zero _ _ hempty, BitVec.toNat_add, toNat_shiftLeft_one]
  cases c <;> simp

/-- The old carry enters the empty bit 7 as a summand. -/
theorem toNat_rotateRight (v : Byte) (c : Bool) : (rotateRight v c).value.toNat = v.toNat / 2 + 128 * c.toNat := by
  have hempty : v >>> 1 &&& (BitVec.ofBool c).setWidth 8 <<< 7 = 0#8 := by
    ext k hk
    by_cases h : k < 7
    · simp [h]
    · simp [BitVec.getLsbD_of_ge v (1 + k) (by omega)]
  show (v >>> 1 ||| _).toNat = _
  rw [← BitVec.add_eq_or_of_and_eq_zero _ _ hempty, BitVec.toNat_add, toNat_shiftRight_one]
  have hv := v.isLt
  cases c <;> simp <;> omega

theorem shiftLeft_shiftsAs : ShiftsAs shiftLeft .asl := fun v _ => by
  rw [shiftLeft, toNat_shiftLeft_one, getLsbD_seven]
  rfl

theorem shiftRight_shiftsAs : ShiftsAs shiftRight .lsr := fun v _ => by
  rw [shiftRight, toNat_shiftRight_one, getLsbD_zero_eq_odd]
  rfl

theorem rotateLeft_shiftsAs : ShiftsAs rotateLeft .rol := fun v c => by
  rw [toNat_rotateLeft, rotateLeft, getLsbD_seven]
  rfl

theorem rotateRight_shiftsAs : ShiftsAs rotateRight .ror := fun v c => by
  rw [toNat_rotateRight, rotateRight, getLsbD_zero_eq_odd]
  rfl

theorem withPlace_some {f : Form} {pl : Place} (h : f.place? = some pl) (g : Place → Result) (s : State) :
    withPlace f g s = g pl := by
  rw [withPlace, h]

/-- A shift writes C first in the order of the rules. -/
theorem shiftFlags_writes_carry (r : ShiftResult) (p : Byte) :
    WritesFlags p (shiftFlags r p) ((.c, r.carry) :: nzOf r.value) :=
  (shiftFlags_writes r p).congr fun _ => (List.perm_append_comm (l₁ := [(StatusFlag.c, _)])).mem_iff

/-- A shift reads its place once and writes the result back to it (R101). -/
theorem shift_writesBack (op : Byte → Bool → ShiftResult) (pl : Place) (s : State) :
    let l := resolvePlace pl s
    let v := l.2.readLoc l.1
    let r := op v.1 (s.flag .c)
    ∃ t, shift op pl s = .next t ∧ WrittenBack s t l.1 r.value v.2.ioReads ∧ t.p = shiftFlags r s.p := by
  cases pl with
  | acc => exact ⟨_, shift_acc_eq op s, ⟨rfl, fun _ => rfl⟩, rfl⟩
  | mem m => exact ⟨_, shift_mem_eq op m s, ⟨rfl, stores_of_memWrite rfl rfl⟩, rfl⟩

/-- A shift whose operation is a mnemonic's does what the mnemonic's rule says. -/
theorem shift_of_shiftsAs {op : Byte → Bool → ShiftResult} {m : Mnemonic} (h : ShiftsAs op m) (pl : Place) (s : State) :
    let l := resolvePlace pl s
    let v := l.2.readLoc l.1
    ∃ t r c, shift op pl s = .next t ∧ shiftedTo m v.1.toNat (s.flag .c).toNat = some (r, c) ∧ r < 256 ∧
      WrittenBack s t l.1 (BitVec.ofNat 8 r) v.2.ioReads ∧
      WritesFlags s.p t.p ((.c, c) :: nzOf (BitVec.ofNat 8 r)) := by
  intro l v
  obtain ⟨t, ht, hback, hp⟩ := shift_writesBack op pl s
  refine ⟨t, _, _, ht, h v.1 (s.flag .c), BitVec.isLt _, ?_⟩
  rw [BitVec.ofNat_toNat, BitVec.setWidth_eq]
  exact ⟨hback, hp ▸ shiftFlags_writes_carry _ _⟩

/-- Settles O33: each mnemonic is the one meaning `shift` with the operation of its rule. -/
theorem shiftsMoveOneBit : Obligations.ShiftsMoveOneBit := by
  intro i hi
  obtain ⟨pl, hpl⟩ := place_of_wf (Laws.instr_wf i) (by rcases hi with h | h | h | h <;> simp [h])
  refine ⟨instr_encodedAsListed i, pl, hpl, fun s => ?_⟩
  rw [exec_eq_execOf]
  rcases hi with h | h | h | h <;> rw [h, execOf, withPlace_some hpl]
  · exact shift_of_shiftsAs shiftLeft_shiftsAs pl s
  · exact shift_of_shiftsAs shiftRight_shiftsAs pl s
  · exact shift_of_shiftsAs rotateLeft_shiftsAs pl s
  · exact shift_of_shiftsAs rotateRight_shiftsAs pl s

/-! ## The increments and decrements -/

theorem byte_add_one (v : Byte) : v + 1 = BitVec.ofNat 8 (v.toNat + 1) := by
  rw [BitVec.ofNat_add, BitVec.ofNat_toNat, BitVec.setWidth_eq]
  rfl

/-- Modulo 256, minus 1 is plus 255. -/
theorem byte_sub_one (v : Byte) : v - 1 = BitVec.ofNat 8 (v.toNat + 255) := by
  rw [BitVec.ofNat_add, BitVec.ofNat_toNat, BitVec.setWidth_eq, BitVec.sub_eq_add_neg]
  rfl

/-- A read-modify-write of one cell stores the changed byte and writes the status from it (R204, R205). -/
theorem modifyCell_writesBack (op : Byte → Byte) (m : MemForm) (s : State) :
    let ea := effAddr m s
    let v := ea.2.memRead ea.1
    ∃ t, modifyCell op m s = .next t ∧ WrittenBack s t (.addr ea.1) (op v.1) v.2.ioReads ∧
      WritesFlags s.p t.p (nzOf (op v.1)) :=
  ⟨_, modifyCell_eq op m s, ⟨rfl, stores_of_memWrite rfl rfl⟩, setNZ_only _ _⟩

/-- Settles O34: INC and DEC are the one meaning `modifyCell`, of plus 1 and of minus 1. -/
theorem incDecChangeTheCell : Obligations.IncDecChangeTheCell := by
  intro i hi
  obtain ⟨m, hm⟩ := memForm_of_wf (Laws.instr_wf i) (by rcases hi with h | h <;> simp [h])
  refine ⟨instr_encodedAsListed i, m, hm, fun s => ?_⟩
  rw [exec_eq_execOf]
  rcases hi with h | h <;> simp only [h, execOf, withMem_some hm, reduceCtorEq, if_true, if_false]
  · rw [← byte_add_one]
    exact modifyCell_writesBack (· + 1) m s
  · rw [← byte_sub_one]
    exact modifyCell_writesBack (· - 1) m s

/-- Settles O35: each is `setX` or `setY` of the register plus or minus 1, which writes the register and `SetNZ`. -/
theorem registerIncrementsWrap : Obligations.RegisterIncrementsWrap := by
  refine ⟨fun i _ => instr_encodedAsListed i, fun s => ?_⟩
  rw [← byte_add_one, ← byte_add_one, ← byte_sub_one, ← byte_sub_one]
  exact ⟨⟨_, rfl, rfl, setNZ_only _ _, fun _ => rfl⟩, ⟨_, rfl, rfl, setNZ_only _ _, fun _ => rfl⟩,
    ⟨_, rfl, rfl, setNZ_only _ _, fun _ => rfl⟩, ⟨_, rfl, rfl, setNZ_only _ _, fun _ => rfl⟩⟩

end Sys2Proof.Proofs
end

section
/-! O36, O37, O38: the transfers and the one-byte stack instructions. A transfer writes its register and, but for TXS, the
status; a push or a pull completes in the closed form of Laws/Stack, or is abandoned (`exec_of_crossesBoundary`). -/

open Sys2Proof Sys2Proof.Machine

namespace Sys2Proof.Proofs

/-- Settles O36: each transfer writes its register, and all but TXS the status through `SetNZ`. -/
theorem transfersCopyTheRegister : Obligations.TransfersCopyTheRegister := by
  refine ⟨fun i _ => instr_encodedAsListed i, fun s => ⟨?_, ?_, ?_, ?_, ?_, ⟨_, rfl, rfl, fun _ => rfl⟩⟩⟩
  all_goals exact ⟨_, rfl, rfl, setNZ_only _ _, fun _ => rfl⟩

/-- The diagnostic of one push, by the S it starts at (R74). -/
theorem wrapDiag_push_one (sp : Nat) (a0 : Word) : wrapDiag (sp < 1) .push a0 = wrapDiag (sp = 0) .push a0 := by
  rw [decide_eq_decide.mpr Nat.lt_one_iff]

/-- The diagnostic of one pop, by the S it starts at (R74). -/
theorem wrapDiag_pop_one (sp : Byte) (a0 : Word) :
    wrapDiag (255 < sp.toNat + 1) .pop a0 = wrapDiag (sp.toNat = 255) .pop a0 := by
  have hsp := sp.isLt
  rw [decide_eq_decide.mpr (by omega : 255 < sp.toNat + 1 ↔ sp.toNat = 255)]

/-- A one-byte push that completes stores the byte at S and lowers S (R71). -/
theorem pushOne_next {s : State} (h : s.params.stackPolicy = .wrap ∨ 1 ≤ s.sp.toNat) (v : Byte) :
    pushOne v s = .next { stackStore s s.sp.toNat v with
      sp := BitVec.ofNat 8 (s.sp.toNat + 255)
      diags := s.diags ++ wrapDiag (s.sp.toNat = 0) .push (s.pc - 1) } := by
  simp only [pushOne, State.push_next h, State.settle, wrapDiag_push_one]
  rw [show s.sp - 1 = _ from sp_sub_eq s.sp 1 (by decide)]
  rfl

/-- A one-byte pull that completes raises S and loads the byte found there (R72). -/
theorem pullOne_next {s : State} (h : s.params.stackPolicy = .wrap ∨ s.sp.toNat + 1 ≤ 255)
    (g : Byte → State → State) :
    pullOne g s = .next (g (s.peek (stackCell (s.sp.toNat + 1))) { s with
      sp := BitVec.ofNat 8 (s.sp.toNat + 1)
      diags := s.diags ++ wrapDiag (s.sp.toNat = 255) .pop (s.pc - 1) }) := by
  simp only [pullOne, State.pop_next h, State.settle, wrapDiag_pop_one]
  rw [show s.sp + 1 = _ from sp_add_eq s.sp 1]
  rfl

/-- Settles O37: both are the one-byte push, PHP of P with bits 5 and 4 set. -/
theorem pushesStoreAtTheStackTop : Obligations.PushesStoreAtTheStackTop := by
  refine ⟨⟨instr_encodedAsListed _, instr_encodedAsListed _⟩, fun i v s hi => ?_⟩
  have hexec : exec i s = pushOne v s := by rcases hi with ⟨rfl, rfl⟩ | ⟨rfl, rfl⟩ <;> rfl
  refine ⟨fun hpolicy hsp => ?_, fun hroom => ?_⟩
  · have hpush : (i.mnemonic, 1) ∈ [(.pha, 1), (.php, 1), (.jsr, 2), (.brk, 3)] := by
      rcases hi with ⟨rfl, -⟩ | ⟨rfl, -⟩ <;> decide
    exact exec_of_crossesBoundary hpolicy ⟨1, .inl ⟨rfl, hpush, hsp⟩⟩
  · exact ⟨_, hexec.trans (pushOne_next hroom v), rfl, peek_stackStore_same s _ v,
      fun _ hb => peek_stackStore_other s v hb⟩

/-- Settles O38: both are the one-byte pull, PLA into A and, through `SetNZ`, the status, PLP into P. -/
theorem pullsLoadTheStackTop : Obligations.PullsLoadTheStackTop := by
  refine ⟨⟨instr_encodedAsListed _, instr_encodedAsListed _⟩, fun s => ⟨fun hpolicy hsp => ?_, fun hroom => ?_⟩⟩
  · exact ⟨exec_of_crossesBoundary hpolicy ⟨1, .inr ⟨rfl, by decide, hsp⟩⟩,
      exec_of_crossesBoundary hpolicy ⟨1, .inr ⟨rfl, by decide, hsp⟩⟩⟩
  · have hpla := pullOne_next hroom fun v t => { t with a := v, p := setNZ v t.p }
    have hplp := pullOne_next hroom fun v t => { t with p := pulledStatus v }
    exact ⟨⟨_, hpla, rfl, setNZ_only _ _, fun _ => rfl⟩, _, hplp, rfl, fun _ => rfl⟩

end Sys2Proof.Proofs
end

section
/-! O29, O49: the refusal of decimal arithmetic, and RTI after BRK: what RTI pulls, byte by byte, is what BRK pushed. -/

open Sys2Proof Sys2Proof.Machine

namespace Sys2Proof.Proofs

/-- ADC and SBC are refused where `DECIMAL_MODE` says so (R264). -/
theorem exec_of_refusesDecimal {i : Instr} {s : State} (hm : i.mnemonic = .adc ∨ i.mnemonic = .sbc)
    (h : s.refusesDecimal = true) : exec i s = .refused (.decimalArithmetic (s.opcodeAddr i.length)) := by
  obtain ⟨src, hsrc⟩ := source_of_wf (Laws.instr_wf i) (by rcases hm with h | h <;> simp [h])
  have hlength : sourceLength src = i.length := by rw [sourceLength, Instr.length, Form.source?_eq hsrc]
  rw [exec_eq_execOf]
  rcases hm with hm | hm <;> rw [hm, execOf, withSource_some hsrc]
  · rw [adc, if_pos h, hlength]
  · rw [sbc, if_pos h, hlength]

/-- Settles O29: an instruction answers a next state unless it is one of the two and D is refused. -/
theorem onlyDecimalArithmeticIsRefused : Obligations.OnlyDecimalArithmeticIsRefused := by
  intro i s r
  refine ⟨fun h => ?_, ?_⟩
  · rcases exec_outcomes i s with ⟨t, ht⟩ | ⟨hrefused, hdecimal, hm⟩
    · cases ht.symm.trans h
    · cases hrefused.symm.trans h
      obtain ⟨hmode, hflag⟩ := s.refusesDecimal_iff.mp hdecimal
      exact ⟨hm, hmode, hflag, rfl⟩
  · rintro ⟨hm, hmode, hflag, rfl⟩
    exact exec_of_refusesDecimal hm (s.refusesDecimal_iff.mpr ⟨hmode, hflag⟩)

/-! ## BRK and back -/

/-- What is pushed of a status and pulled again has its flags (R28). -/
theorem getFlag_pulled_pushed (f : StatusFlag) (p : Byte) : getFlag f (pulledStatus (pushedStatus p)) = getFlag f p := by
  rw [getFlag, getLsbD_pulledStatus, getLsbD_pushedStatus]
  cases f <;> rfl

/-- What is pushed of a status with bit 5 set and bit 4 clear and pulled again is that status (R28). -/
theorem pulled_pushed {p : Byte} (h5 : p[5] = true) (h4 : p[4] = false) : pulledStatus (pushedStatus p) = p := by
  apply BitVec.eq_of_getLsbD_eq
  intro k _
  rw [getLsbD_pulledStatus, getLsbD_pushedStatus]
  split
  · next h => rw [h]; exact h5.symm
  · split
    · next h => rw [h]; exact h4.symm
    · next h5' h4' => rw [if_neg (by omega)]

/-- Settles O49: S is back three below where BRK found it, so RTI pulls the status and the address BRK pushed. -/
theorem rtiUndoesBrk : Obligations.RtiUndoesBrk := by
  intro s t u hroom hbrk hparams hsp hkept
  obtain ⟨t', hexec, ht, -, hhigh, hlow, hstatus, -⟩ := (brkTakesTheVector.2 s).2 hroom
  cases hexec.symm.trans hbrk
  have hs := s.sp.isLt
  have husp : u.sp.toNat = (s.sp.toNat + 253) % 256 := by
    rw [hsp, show t.sp = BitVec.ofNat 8 (s.sp.toNat + 253) from congrArg State.sp ht, BitVec.toNat_ofNat]
  have hpulled : u.peek (stackCell (u.sp.toNat + 1)) = pushedStatus s.p := by
    rw [stackCell_congr (by omega : _ = (s.sp.toNat + 256 - 2) % 256), hkept 2 (by omega)]
    exact hstatus
  have hpulledLow : u.peek (stackCell (u.sp.toNat + 2)) = loByte (s.pc + 1) := by
    rw [stackCell_congr (by omega : _ = (s.sp.toNat + 256 - 1) % 256), hkept 1 (by omega), loByte_eq]
    exact hlow
  have hpulledHigh : u.peek (stackCell (u.sp.toNat + 3)) = hiByte (s.pc + 1) := by
    rw [stackCell_congr (by omega : _ = (s.sp.toNat + 256 - 0) % 256), hkept 0 (by omega), hiByte_eq, ← hhigh,
      stackCell_congr (by omega : (s.sp.toNat + 256 - 0) % 256 = s.sp.toNat % 256)]
  have hreturn := (rtiRestoresStatusAndPc.2 u).2 (hparams ▸ hroom.imp_right (by omega))
  rw [hpulled, hpulledLow, hpulledHigh] at hreturn
  have hpc : BitVec.ofNat 16 ((loByte (s.pc + 1)).toNat + 256 * (hiByte (s.pc + 1)).toNat) = s.pc + 1 := by
    rw [← joinBytes_eq, joinBytes_lo_hi]
  refine ⟨_, hreturn, hpc, ?_, fun f => getFlag_pulled_pushed f s.p, fun h5 h4 => pulled_pushed h5 h4⟩
  apply BitVec.eq_of_toNat_eq
  rw [BitVec.toNat_ofNat]
  omega

end Sys2Proof.Proofs
end

section
/-! O8, O12, O13, O15: the base cycles, reset, and the host's operations. A load is a reset and the copy of the image
(`Memory.read_copy`, `Memory.wf_copy`). -/

open Sys2Proof Sys2Proof.Machine

namespace Sys2Proof.Proofs

/-- Settles O8: the row an instruction's opcode looks up makes it, and every row that makes one has its cycles. -/
theorem baseCyclesFollowTheModeTable : Obligations.BaseCyclesFollowTheModeTable := by
  intro i
  obtain ⟨r, hlookup, -, hmnemonic, hmode, hbuild⟩ := Laws.TableRow.all i
  obtain ⟨ops, hmakes, -⟩ := Row.build_ok (table_sound (lookup_mem hlookup)) (hbuild [])
  exact ⟨r, hlookup, hmnemonic, hmode, hmakes.cycles.symm⟩

/-! ## Reset -/

/-- P right after a reset, flag by flag: I alone is set (R45). -/
theorem getFlag_resetStatus (f : StatusFlag) : getFlag f 0x24 = decide (f = .i) := by
  cases f <;> decide

/-- Settles O13: each field has the value a reset writes, and memory is `MEM0`. -/
theorem resetValues : Obligations.ResetValues := fun _ _ =>
  ⟨rfl, rfl, rfl, rfl, rfl, rfl, rfl, rfl, rfl, getFlag_resetStatus _, getFlag_resetStatus _, getFlag_resetStatus _,
    getFlag_resetStatus _, getFlag_resetStatus _, getFlag_resetStatus _, (by decide : (0x24#8)[5] = true),
    (by decide : (0x24#8)[4] = false), fun _ => rfl⟩

/-! ## Load -/

/-- The state a load of an image that fits leaves (R292). -/
def loadedState (image : List Byte) (origin : Word) (s : State) : State :=
  { State.resetTo s.params origin with
    mem := Memory.copy s.params.mem0 origin image, ioReads := s.ioReads }

section load

variable {image : List Byte} {origin : Word} (s : State)

theorem load_of_fits (h : origin.toNat + image.length ≤ 0x10000) :
    load image origin s = .ok (loadedState image origin s) := by
  rw [load, if_pos (by simpa [imageFits] using h)]
  rfl

theorem load_of_not_fits (h : 0x10000 < origin.toNat + image.length) :
    load image origin s = .error ⟨image.length, origin⟩ := by
  rw [load, if_neg (by simpa [imageFits] using h)]

theorem eq_loadedState_of_load {t : State} (h : load image origin s = .ok t) : t = loadedState image origin s := by
  rcases Nat.lt_or_ge 0x10000 (origin.toNat + image.length) with hlong | hfits
  · cases (load_of_not_fits s hlong).symm.trans h
  · exact (Except.ok.inj ((load_of_fits s hfits).symm.trans h)).symm

end load

/-- Settles O12: a load is refused or copies the image, whose last byte stored to a cell stays. -/
theorem loadCopiesTheImageOrRejectsIt : Obligations.LoadCopiesTheImageOrRejectsIt := by
  intro image origin s
  refine ⟨load_of_not_fits s, fun hfits => ⟨_, load_of_fits s hfits, rfl, fun k hk hlast => ?_, fun b hb => ?_⟩⟩
  · exact (Memory.read_copy image s.params.mem0 origin 0).1 k hk hlast
  · exact (Memory.read_copy image s.params.mem0 origin (canon b).toNat).2 fun k hk =>
      mt canon_toNat_inj.mp (hb k hk)

/-! ## The invariant -/

theorem inv_loadedState {s : State} (h : s.Inv) (image : List Byte) (origin : Word) :
    (loadedState image origin s).Inv :=
  have hreset := inv_resetTo s.params origin h.mem0Wf
  { hreset with memWf := Memory.wf_copy h.mem0Wf origin image }

theorem inv_verify {s : State} (h : s.Inv) (golden : List Line) : (s.verify golden).Inv := { h with }

theorem inv_stop {s : State} (h : s.Inv) : s.stop.Inv := by
  cases hrun : s.run with
  | halted r => rwa [stop_halted hrun]
  | running =>
    rw [stop_running hrun]
    exact { h with haltLegal := trivial }

/-- Settles O15: a load copies bytes to canonical cells of a reset state; a stop and a verification write nothing but the
run state and the verifier. -/
theorem hostOperationsKeepTheInvariant : Obligations.HostOperationsKeepTheInvariant := by
  refine fun s h => ⟨fun image origin t ht => ?_, inv_stop h, inv_verify h⟩
  rw [eq_loadedState_of_load s ht]
  exact inv_loadedState h image origin

end Sys2Proof.Proofs
end

section
/-! O56, O60: the text of a trace line. The operand text goes by the mode and the operand bytes of the form; a line is the
address, the bytes, the disassembly and the snapshot with spaces between, and each field is read back at its column. -/

open Sys2Proof Sys2Proof.Machine Sys2Proof.Claims

namespace Sys2Proof.Proofs

/-! ## Hexadecimal and padding -/

theorem hexDigits_get : ∀ n : Fin 16, hexDigits[n.val]? = some (hexDigit n) := by decide

theorem hexDigits_getElem? {n : Nat} (h : n < 16) : hexDigits[n]? = some (hexDigit n) := hexDigits_get ⟨n, h⟩

@[simp] theorem hex2_length (v : Byte) : (hex2 v).length = 2 := rfl

@[simp] theorem hex4_length (w : Word) : (hex4 w).length = 4 := rfl

/-- The digits of a 16-bit value, the most significant first (R241). -/
theorem hex4_eq (w : Word) :
    hex4 w = [hexDigit (w.toNat / 16 ^ 3 % 16), hexDigit (w.toNat / 16 ^ 2 % 16), hexDigit (w.toNat / 16 ^ 1 % 16),
      hexDigit (w.toNat / 16 ^ 0 % 16)] := by
  have hw := w.isLt
  have h3 : w.toNat / 256 % 2 ^ 8 / 16 = w.toNat / 16 ^ 3 % 16 := by omega
  have h2 : w.toNat / 256 % 2 ^ 8 % 16 = w.toNat / 16 ^ 2 % 16 := by omega
  have h1 : w.toNat % 2 ^ 8 / 16 = w.toNat / 16 ^ 1 % 16 := by omega
  have h0 : w.toNat % 2 ^ 8 % 16 = w.toNat / 16 ^ 0 % 16 := by omega
  rw [← h3, ← h2, ← h1, ← h0, hex4, hex2, hex2, hiByte_eq, loByte_eq, BitVec.toNat_ofNat, BitVec.toNat_ofNat]
  rfl

theorem hex2_getElem? (v : Byte) :
    (hex2 v)[0]? = hexDigits[v.toNat / 16]? ∧ (hex2 v)[1]? = hexDigits[v.toNat % 16]? := by
  have hv := v.isLt
  rw [hexDigits_getElem? (by omega), hexDigits_getElem? (by omega)]
  exact ⟨rfl, rfl⟩

theorem hex4_getElem? (w : Word) {k : Nat} (h : k < 4) : (hex4 w)[k]? = hexDigits[w.toNat / 16 ^ (3 - k) % 16]? := by
  rw [hexDigits_getElem? (Nat.mod_lt _ (by decide)), hex4_eq]
  interval_cases k <;> rfl

@[simp] theorem pad_length (text : Line) (width : Nat) : (pad text width).length = max text.length width := by
  rw [pad, List.length_append, List.length_replicate]
  omega

theorem pad_take (text : Line) (width : Nat) : (pad text width).take text.length = text := List.take_left

theorem pad_getElem? {text : Line} {width k : Nat} (h : text.length ≤ k) (hk : k < width) :
    (pad text width)[k]? = some ' ' := by
  rw [pad, List.getElem?_append_right h, List.getElem?_replicate, if_pos (by omega)]

/-! ## The disassembly -/

theorem mnemonicText_eq (m : Mnemonic) : mnemonicText m = (mnemonicName m).toList := by
  cases m <;> rfl

theorem mnemonicText_length (m : Mnemonic) : (mnemonicText m).length = 3 := by
  cases m <;> rfl

/-- The target a branch shows, in numbers (R99, R242). -/
theorem shownTarget_eq (a0 : Word) (off : Byte) :
    a0 + 2 + sext16 off = BitVec.ofInt 16 (a0.toNat + 2 + off.toInt) := by
  rw [sext16_eq, BitVec.ofInt_add, BitVec.ofInt_add]
  simp

/-- The text of a form is that of its mode, made of its operand bytes (R242). -/
theorem formText_eq (f : Form) (a0 : Word) :
    formText f a0 = operandText f.mode (f.operandBytes.getD 0 0x00) (f.operandBytes.getD 1 0x00) a0 := by
  cases f with
  | imp | acc | imm _ | ind _ => rfl
  | mem m => cases m <;> rfl
  | rel off => exact congrArg (" $".toList ++ hex4 ·) (shownTarget_eq a0 off)

theorem formText_length (f : Form) (a0 : Word) : (formText f a0).length ≤ 8 := by
  cases f with
  | imp | acc | imm _ | ind _ | rel _ => simp [formText]
  | mem m => cases m <;> simp [formText, memText]

theorem disasm_length (i : Instr) (a0 : Word) : (disasm i a0).length ≤ 11 := by
  rw [disasm, List.length_append, mnemonicText_length]
  exact Nat.add_le_add_left (formText_length i.form a0) 3

/-- Settles O60: digit by digit and mode by mode. -/
theorem traceTextFollowsTheModeTable : Obligations.TraceTextFollowsTheModeTable := by
  refine ⟨fun v => ⟨hex2_length v, hex2_getElem? v⟩, fun w => ⟨hex4_length w, fun k => hex4_getElem? w⟩,
    fun text width => ⟨pad_length text width, pad_take text width, fun k => pad_getElem?⟩,
    fun i a0 => ⟨?_, disasm_length i a0⟩⟩
  rw [disasm, mnemonicText_eq, formText_eq]
  rfl

/-! ## The line -/

/-- The bytes as the line shows them, with a space between (R243). -/
def bytesText (bytes : List Byte) : Line := List.intercalate [' '] (bytes.map hex2)

/-- The registers as the line shows them (R243). -/
def snapshotText (r : TraceRecord) : Line :=
  "A:".toList ++ hex2 r.a ++ " X:".toList ++ hex2 r.x ++ " Y:".toList ++ hex2 r.y ++
    " P:".toList ++ hex2 r.p ++ " SP:".toList ++ hex2 r.sp

/-- Spaces between two fields. -/
def spaces (n : Nat) : Line := List.replicate n ' '

@[simp] theorem spaces_length (n : Nat) : (spaces n).length = n := List.length_replicate

theorem spaces_add (m n : Nat) : spaces (m + n) = spaces m ++ spaces n := List.replicate_add m n ' '

theorem two_spaces : "  ".toList = spaces 2 := rfl

theorem pad_eq (text : Line) (width : Nat) : pad text width = text ++ spaces (width - text.length) := rfl

theorem bytesText_length (b : Byte) (bytes : List Byte) :
    (bytesText (b :: bytes)).length = 3 * bytes.length + 2 := by
  induction bytes generalizing b with
  | nil => rfl
  | cons c bytes ih =>
    have h : bytesText (b :: c :: bytes) = hex2 b ++ ' ' :: bytesText (c :: bytes) := by
      simp [bytesText, List.intercalate]
    rw [h, List.length_append, List.length_cons, List.length_cons, ih, hex2_length]
    omega

theorem bytesText_encode_length (i : Instr) : (bytesText (encode i)).length = 3 * i.length - 1 := by
  rw [encode, bytesText_length, Instr.length, form_operandBytes_length]
  omega

/-- Four fields with spaces between: the second one starts at column 6, the third at 16, the last at 48 (R243). -/
def lineOf (addr bytes text snapshot : Line) : Line :=
  addr ++ spaces 2 ++ bytes ++ spaces (8 - bytes.length + 2) ++ text ++ spaces (32 - text.length) ++ snapshot

theorem formatLine_eq (r : TraceRecord) :
    formatLine r = lineOf (hex4 r.addr) (bytesText r.bytes) r.text (snapshotText r) := by
  unfold formatLine lineOf snapshotText
  rw [two_spaces, spaces_add (8 - (bytesText r.bytes).length) 2, pad_eq, pad_eq]
  unfold bytesText
  simp only [List.append_assoc]

/-! ## The columns of a line -/

/-- A field is read back from where the text before it ends. -/
theorem field_of_append {pre field post : Line} {column : Nat} (h : pre.length = column) :
    ((pre ++ field ++ post).drop column).take field.length = field := by
  rw [← h, List.append_assoc, List.drop_left, List.take_left]

theorem space_of_append {pre post : Line} {n k : Nat} (h : pre.length ≤ k) (hk : k < pre.length + n) :
    (pre ++ spaces n ++ post)[k]? = some ' ' := by
  rw [List.append_assoc, List.getElem?_append_right h, List.getElem?_append_left (by rw [spaces_length]; omega),
    spaces, List.getElem?_replicate, if_pos (by omega)]

section columns

variable {addr bytes text snapshot : Line} (haddr : addr.length = 4)
include haddr

theorem lineOf_addr : (lineOf addr bytes text snapshot).take 4 = addr := by
  simp only [lineOf, List.append_assoc]
  exact List.take_left' haddr

theorem lineOf_addrGap {k : Nat} (h : 4 ≤ k) (hk : k < 6) : (lineOf addr bytes text snapshot)[k]? = some ' ' := by
  unfold lineOf
  iterate 4 rw [List.append_assoc (addr ++ spaces 2)]
  exact space_of_append (by omega) (by omega)

theorem lineOf_bytes : ((lineOf addr bytes text snapshot).drop 6).take bytes.length = bytes := by
  unfold lineOf
  iterate 3 rw [List.append_assoc (addr ++ spaces 2 ++ bytes)]
  exact field_of_append (by simp [haddr])

variable (hbytes : bytes.length ≤ 8)
include hbytes

theorem lineOf_bytesGap {k : Nat} (h : 6 + bytes.length ≤ k) (hk : k < 16) :
    (lineOf addr bytes text snapshot)[k]? = some ' ' := by
  unfold lineOf
  iterate 2 rw [List.append_assoc (addr ++ spaces 2 ++ bytes ++ spaces _)]
  exact space_of_append (by simp; omega) (by simp; omega)

theorem lineOf_text : ((lineOf addr bytes text snapshot).drop 16).take text.length = text := by
  unfold lineOf
  rw [List.append_assoc (addr ++ spaces 2 ++ bytes ++ spaces _ ++ text)]
  exact field_of_append (by simp; omega)

variable (htext : text.length ≤ 32)
include htext

theorem lineOf_textGap {k : Nat} (h : 16 + text.length ≤ k) (hk : k < 48) :
    (lineOf addr bytes text snapshot)[k]? = some ' ' :=
  space_of_append (by simp; omega) (by simp; omega)

theorem lineOf_snapshot : (lineOf addr bytes text snapshot).drop 48 = snapshot :=
  List.drop_left' (by simp; omega)

theorem lineOf_length : (lineOf addr bytes text snapshot).length = 48 + snapshot.length := by
  simp [lineOf]
  omega

end columns

theorem snapshotText_length (r : TraceRecord) : (snapshotText r).length = 25 := rfl

/-- Settles O56: an instruction has at most three bytes, so the bytes take at most the 8 columns kept for them. -/
theorem traceLinesAre73Characters : Obligations.TraceLinesAre73Characters := by
  intro i s text
  have hlength : (bytesText (encode i)).length = 3 * i.length - 1 := bytesText_encode_length i
  have hbytes : (bytesText (encode i)).length ≤ 8 := by
    have := (opcodeFixesModeAndLength.1 i).2.2.1
    omega
  have hdisasm := disasm_length i s.pc
  have hpadded : (disasm i s.pc).length ≤ 32 := by omega
  have haddr := hex4_length s.pc
  have htext : text = lineOf (hex4 s.pc) (bytesText (encode i)) (disasm i s.pc)
      (snapshotText (traceRecord s (encode i) i)) := formatLine_eq _
  rw [htext, ← hlength]
  exact ⟨lineOf_length haddr hbytes hpadded, lineOf_addr haddr, lineOf_addrGap haddr (by decide) (by decide),
    lineOf_addrGap haddr (by decide) (by decide), lineOf_bytes haddr, fun k => lineOf_bytesGap haddr hbytes, hdisasm,
    lineOf_text haddr hbytes, fun k => lineOf_textGap haddr hbytes hpadded, lineOf_snapshot haddr hbytes hpadded⟩

end Sys2Proof.Proofs
end

section
/-! O57: the verifier. What it reports after a list of produced lines follows by induction on that list, one line fed at
its end: while it compares, the golden lines it has left are those from its position on. -/

open Sys2Proof Sys2Proof.Machine Sys2Proof.Claims

namespace Sys2Proof.Proofs

/-! ## Normalisation and truncation -/

theorem dropTerminator_lf {t : Line} (h : t.head? ≠ some '\r') : dropTerminator ('\n' :: t) = t := by
  unfold dropTerminator
  split
  · next heq => cases heq; exact absurd rfl h
  · next heq => cases heq; rfl
  · next hne => exact absurd rfl (hne t)

theorem dropTerminator_of_ne_lf {t : Line} (h : t.head? ≠ some '\n') : dropTerminator t = t := by
  unfold dropTerminator
  split
  · exact absurd rfl h
  · exact absurd rfl h
  · rfl

theorem normLine_crlf (text : Line) : normLine (text ++ ['\r', '\n']) = text := by
  simp [normLine, dropTerminator]

theorem normLine_lf {text : Line} (h : text.getLast? ≠ some '\r') : normLine (text ++ ['\n']) = text := by
  rw [← List.head?_reverse] at h
  rw [normLine, List.reverse_append, List.reverse_singleton, List.singleton_append, dropTerminator_lf h,
    List.reverse_reverse]

theorem normLine_of_ne_lf {text : Line} (h : text.getLast? ≠ some '\n') : normLine text = text := by
  rw [← List.head?_reverse] at h
  rw [normLine, dropTerminator_of_ne_lf h, List.reverse_reverse]

theorem truncLine_getElem? {cols k : Nat} (text : Line) (h : k < cols) : (truncLine cols text)[k]? = text[k]? := by
  rw [truncLine, List.getElem?_take, if_pos h]

/-- Truncation keeps the whole of a produced line from 73 columns on (R251). -/
theorem truncLine_formatLine {cols : Nat} (h : 73 ≤ cols) (i : Instr) (s : State) :
    truncLine cols (formatLine (traceRecord s (encode i) i)) = formatLine (traceRecord s (encode i) i) :=
  List.take_of_length_le (by rw [(traceLinesAre73Characters i s).1]; exact h)

/-! ## Comparing -/

section step

variable {cols index : Nat} {g p : Line} (rest : List Line)

theorem verifierStep_of_match (h : truncLine cols (normLine g) = truncLine cols p) :
    Verifier.step ⟨g :: rest, index, .comparing⟩ cols p = ⟨rest, index + 1, .comparing⟩ := by
  simp only [Verifier.step, if_pos h]

theorem verifierStep_of_differ (h : truncLine cols (normLine g) ≠ truncLine cols p) :
    Verifier.step ⟨g :: rest, index, .comparing⟩ cols p = ⟨rest, index, .mismatch g p index⟩ := by
  simp only [Verifier.step, if_neg h]

end step

section comparing

variable {cols : Nat} {gs ps : List Line}

/-- A line once fed stays at its position. -/
theorem getElem?_concat_of_some {l x : Line} {k : Nat} (h : ps[k]? = some l) : (ps ++ [x])[k]? = some l := by
  obtain ⟨hk, -⟩ := List.getElem?_eq_some_iff.mp h
  rw [List.getElem?_append_left hk, h]

theorem linesMatch_concat {k : Nat} (p : Line) (h : linesMatch cols gs ps k) : linesMatch cols gs (ps ++ [p]) k := by
  obtain ⟨g, q, hg, hq, heq⟩ := h
  exact ⟨g, q, hg, getElem?_concat_of_some hq, heq⟩

end comparing

/-- What the verifier knows after the produced lines: the obligation's report and, while it compares, the golden lines
it has left. -/
def Reports (cols : Nat) (gs ps : List Line) (v : Verifier) : Prop :=
  match v.status with
  | .mismatch expected actual k =>
    gs[k]? = some expected ∧ ps[k]? = some actual ∧ truncLine cols (normLine expected) ≠ truncLine cols actual ∧
      v.index = k ∧ ∀ j, j < k → linesMatch cols gs ps j
  | .passed k signal => signal = none ∧ k = gs.length ∧ k < ps.length ∧ ∀ j, j < k → linesMatch cols gs ps j
  | .comparing => v.index = ps.length ∧ (∀ j, j < ps.length → linesMatch cols gs ps j) ∧
      v.golden = gs.drop ps.length ∧ ps.length ≤ gs.length

theorem getElem?_and_drop_of_drop_eq_cons {gs rest : List Line} {g : Line} {n : Nat} (h : gs.drop n = g :: rest) :
    gs[n]? = some g ∧ rest = gs.drop (n + 1) := by
  have htail : (gs.drop n).tail = gs.drop (n + 1) := List.tail_drop
  have hhead : (gs.drop n).head? = gs[n]? := List.head?_drop
  rw [h] at htail hhead
  exact ⟨hhead.symm, htail⟩

theorem reports_initial (cols : Nat) (gs : List Line) : Reports cols gs [] ⟨gs, 0, .comparing⟩ :=
  ⟨rfl, fun _ hj => absurd hj (Nat.not_lt_zero _), rfl, Nat.zero_le _⟩

theorem reports_step {cols : Nat} {gs ps : List Line} {v : Verifier} (p : Line) (h : Reports cols gs ps v) :
    Reports cols gs (ps ++ [p]) (v.step cols p) := by
  obtain ⟨golden, index, status⟩ := v
  cases status with
  | mismatch expected actual k =>
    obtain ⟨hexpected, hactual, hne, hindex, hmatch⟩ := h
    exact ⟨hexpected, getElem?_concat_of_some hactual, hne, hindex, fun j hj => linesMatch_concat p (hmatch j hj)⟩
  | passed k signal =>
    obtain ⟨hsignal, hk, hlt, hmatch⟩ := h
    refine ⟨hsignal, hk, ?_, fun j hj => linesMatch_concat p (hmatch j hj)⟩
    rw [List.length_append]
    exact Nat.lt_add_right _ hlt
  | comparing =>
    obtain ⟨rfl, hmatch, rfl, hle⟩ := h
    have hlast : (ps ++ [p])[ps.length]? = some p := List.getElem?_concat_length
    have hlength : (ps ++ [p]).length = ps.length + 1 := List.length_append
    have hearlier := fun j hj => linesMatch_concat p (hmatch j hj)
    cases hgolden : gs.drop ps.length with
    | nil =>
      have hge : gs.length ≤ ps.length := List.drop_eq_nil_iff.mp hgolden
      exact ⟨rfl, Nat.le_antisymm hle hge, hlength ▸ Nat.lt_succ_self _, hearlier⟩
    | cons g rest =>
      obtain ⟨hg, hrest⟩ := getElem?_and_drop_of_drop_eq_cons hgolden
      by_cases heq : truncLine cols (normLine g) = truncLine cols p
      · rw [verifierStep_of_match rest heq]
        refine ⟨hlength.symm, fun j hj => ?_, hlength ▸ hrest, hlength ▸ (List.getElem?_eq_some_iff.mp hg).1⟩
        rcases Nat.lt_succ_iff_lt_or_eq.mp (hlength ▸ hj) with hj | rfl
        · exact hearlier j hj
        · exact ⟨g, p, hg, hlast, heq⟩
      · rw [verifierStep_of_differ rest heq]
        exact ⟨hg, hlast, heq, rfl, hearlier⟩

theorem reports_verified (cols : Nat) (gs ps : List Line) : Reports cols gs ps (verified cols gs ps) := by
  induction ps using List.reverseRecOn with
  | nil => exact reports_initial cols gs
  | append_singleton ps p ih =>
    rw [verified, List.foldl_append]
    exact reports_step p ih

/-- Settles O57: what the verifier reports it knows of the lines fed so far. -/
theorem verifierReportsTheFirstDivergence : Obligations.VerifierReportsTheFirstDivergence := by
  refine ⟨fun cols gs ps => ?_, fun text => ⟨normLine_crlf text, normLine_lf, normLine_of_ne_lf⟩,
    fun cols text => ⟨List.length_take, fun _ => truncLine_getElem? text⟩, fun _ i s h => truncLine_formatLine h i s⟩
  have h := reports_verified cols gs ps
  generalize verified cols gs ps = v at h ⊢
  obtain ⟨golden, index, status⟩ := v
  cases status with
  | mismatch expected actual k => exact h
  | passed k signal => exact h
  | comparing =>
    obtain ⟨hindex, hmatch, -⟩ := h
    exact ⟨hindex, hmatch⟩

end Sys2Proof.Proofs
end

section
/-! O58: the verifier's isolation. The operations that choose between two ends (the stack, a refused ADC or SBC, the
indirect jump) choose the same with any verifier, and the others write the next state from what they read of it. So an
instruction carries the verifier along, and a step writes it only at its end. -/

open Sys2Proof Sys2Proof.Machine

namespace Sys2Proof.Proofs

/-- The state with another verifier, or with none. -/
def withVerifier (v : Option Verifier) (s : State) : State := { s with verifier := v }

/-! ## Every instruction carries the verifier along -/

section instructions

variable (v : Option Verifier) (s : State)

theorem refusesDecimal_withVerifier : (withVerifier v s).refusesDecimal = s.refusesDecimal := rfl

theorem readSource_withVerifier (src : Source) :
    readSource src (withVerifier v s) = ((readSource src s).1, withVerifier v (readSource src s).2) := by
  cases src with
  | imm b => rfl
  | mem m => cases m <;> rfl

theorem adc_withVerifier (src : Source) : adc src (withVerifier v s) = mapNext (withVerifier v) (adc src s) := by
  simp only [adc, refusesDecimal_withVerifier, readSource_withVerifier]
  split <;> rfl

theorem sbc_withVerifier (src : Source) : sbc src (withVerifier v s) = mapNext (withVerifier v) (sbc src s) := by
  simp only [sbc, refusesDecimal_withVerifier, readSource_withVerifier]
  split <;> rfl

theorem jmpInd_withVerifier (ptr : Word) :
    execJmpInd ptr (withVerifier v s) = mapNext (withVerifier v) (execJmpInd ptr s) := by
  unfold execJmpInd
  rw [indirectTarget_eq, indirectTarget_eq]
  rfl

theorem pushOne_withVerifier (b : Byte) : pushOne b (withVerifier v s) = mapNext (withVerifier v) (pushOne b s) := by
  rcases s.push_room 1 with hr | ⟨hp, hr⟩
  · rw [pushOne_next hr, pushOne_next (s := withVerifier v s) hr]; rfl
  · rw [pushOne_fault hp hr, pushOne_fault (s := withVerifier v s) hp hr]; rfl

/-- `g` is what the byte is loaded into. -/
theorem pullOne_withVerifier (g : Byte → State → State) (hg : ∀ b t, g b (withVerifier v t) = withVerifier v (g b t)) :
    pullOne g (withVerifier v s) = mapNext (withVerifier v) (pullOne g s) := by
  rcases s.pop_room 1 with hr | ⟨hp, hr⟩
  · rw [pullOne_next hr, pullOne_next (s := withVerifier v s) hr]
    exact congrArg Host.Outcome.next (hg _ { s with sp := _, diags := _ })
  · rw [pullOne_fault hp hr, pullOne_fault (s := withVerifier v s) hp hr]; rfl

variable (a0 : Word)

theorem callSubroutine_withVerifier (target : Word) :
    (withVerifier v s).settle a0 ((withVerifier v s).callSubroutine a0 target) =
      mapNext (withVerifier v) (s.settle a0 (s.callSubroutine a0 target)) := by
  rcases s.push_room 2 with hr | ⟨hp, hr⟩
  · rw [State.callSubroutine_next hr, State.callSubroutine_next (s := withVerifier v s) hr]; rfl
  · rw [State.callSubroutine_fault hp hr, State.callSubroutine_fault (s := withVerifier v s) hp hr]; rfl

theorem returnFromSubroutine_withVerifier :
    (withVerifier v s).settle a0 ((withVerifier v s).returnFromSubroutine a0) =
      mapNext (withVerifier v) (s.settle a0 (s.returnFromSubroutine a0)) := by
  rcases s.pop_room 2 with hr | ⟨hp, hr⟩
  · rw [State.returnFromSubroutine_next hr, State.returnFromSubroutine_next (s := withVerifier v s) hr]; rfl
  · rw [State.returnFromSubroutine_fault hp hr, State.returnFromSubroutine_fault (s := withVerifier v s) hp hr]; rfl

theorem takeBreak_withVerifier :
    (withVerifier v s).settle a0 ((withVerifier v s).takeBreak a0) =
      mapNext (withVerifier v) (s.settle a0 (s.takeBreak a0)) := by
  rcases s.push_room 3 with hr | ⟨hp, hr⟩
  · rw [State.takeBreak_next hr, State.takeBreak_next (s := withVerifier v s) hr]; rfl
  · rw [State.takeBreak_fault hp hr, State.takeBreak_fault (s := withVerifier v s) hp hr]; rfl

theorem returnFromBreak_withVerifier :
    (withVerifier v s).settle a0 ((withVerifier v s).returnFromBreak a0) =
      mapNext (withVerifier v) (s.settle a0 (s.returnFromBreak a0)) := by
  rcases s.pop_room 3 with hr | ⟨hp, hr⟩
  · rw [State.returnFromBreak_next hr, State.returnFromBreak_next (s := withVerifier v s) hr]; rfl
  · rw [State.returnFromBreak_fault hp hr, State.returnFromBreak_fault (s := withVerifier v s) hp hr]; rfl

theorem exec_withVerifier (i : Instr) : exec i (withVerifier v s) = mapNext (withVerifier v) (exec i s) := by
  cases i
  case adcIzx | adcZp | adcImm | adcAbs | adcIzy | adcZpx | adcAby | adcAbx => exact adc_withVerifier v s _
  case sbcIzx | sbcZp | sbcImm | sbcAbs | sbcIzy | sbcZpx | sbcAby | sbcAbx => exact sbc_withVerifier v s _
  case jmpInd ptr => exact jmpInd_withVerifier v s ptr
  case pha | php => exact pushOne_withVerifier v s _
  case pla => exact pullOne_withVerifier v s (fun b t => { t with a := b, p := setNZ b t.p }) fun _ _ => rfl
  case plp => exact pullOne_withVerifier v s (fun b t => { t with p := pulledStatus b }) fun _ _ => rfl
  case jsr a => exact callSubroutine_withVerifier v s _ a
  case rts => exact returnFromSubroutine_withVerifier v s _
  case brk => exact takeBreak_withVerifier v s _
  case rti => exact returnFromBreak_withVerifier v s _
  all_goals rfl

end instructions

/-! ## Every step -/

theorem atHandler_withVerifier (v : Option Verifier) (s : State) (n : Nat) :
    (withVerifier v s).atHandler n = withVerifier v (s.atHandler n) := by
  have hdraws : ((withVerifier v s).fetchBytes n).2.ioReads = (s.fetchBytes n).2.ioReads :=
    (State.fetchBytes_congr (s := s) (t := withVerifier v s) rfl rfl rfl rfl n).2
  rw [State.atHandler, hdraws]
  rfl

/-- The step of an instruction does the same with any verifier, and only feeds it. -/
theorem stepOf_withVerifier (v : Option Verifier) (s : State) (i : Instr) :
    mapNext (withVerifier none) ((stepOf (withVerifier v s) i).toOutcome (withVerifier v s)) =
      mapNext (withVerifier none) ((stepOf s i).toOutcome s) := by
  unfold stepOf
  rw [atHandler_withVerifier, exec_withVerifier]
  cases exec i (s.atHandler i.length) with
  | next t =>
    cases hrun : t.run with
    | running =>
      simp only [mapNext, finish_running hrun, finish_running (t := withVerifier v t) hrun]
      rfl
    | halted r =>
      simp only [mapNext, finish_halted hrun, finish_halted (t := withVerifier v t) hrun]
      rfl
  | fault f => rfl
  | refused r => rfl

theorem step_withVerifier (v : Option Verifier) (s : State) :
    mapNext (withVerifier none) (step (withVerifier v s)) = mapNext (withVerifier none) (step s) := by
  unfold step
  rcases dispatchStep_cases s with ⟨hl, hd⟩ | ⟨hl, r, hr, hd⟩ | ⟨hl, hr, hop, hd⟩ | ⟨hl, hr, i, hi, hd⟩
  · have hd' : dispatchStep (withVerifier v s) = .refused .notLoaded := by simp [dispatchStep, withVerifier, hl]
    rw [hd, hd']
    rfl
  · have hd' : dispatchStep (withVerifier v s) = .halted r := by simp [dispatchStep, withVerifier, hl, hr]
    rw [hd, hd']
    rfl
  · rw [hd, dispatchStep_of_unmapped (s := withVerifier v s) hl hr hop]
    rfl
  · have hbytes : ((withVerifier v s).fetchBytes i.length).1 = (s.fetchBytes i.length).1 :=
      (State.fetchBytes_congr (s := s) (t := withVerifier v s) rfl rfl rfl rfl i.length).1
    rw [hd, dispatchStep_of_encode (s := withVerifier v s) hl hr (hbytes.trans hi)]
    exact stepOf_withVerifier v s i

/-! ## What a step feeds the verifier -/

/-- Before it is fed, the verifier is as the step found it, and so is the number of columns it compares. -/
def KeepsVerifier (s : State) : StepOutcome → Prop
  | .next _ _ t | .halt _ t => t.verifier = s.verifier ∧ t.params = s.params
  | .halted _ | .fault _ | .refused _ => True

theorem stepOf_keepsVerifier (s : State) (i : Instr) : KeepsVerifier s (stepOf s i) := by
  unfold stepOf
  split
  · next t ht =>
    have hkeeps := exec_keeps ht
    unfold finish
    split <;> exact ⟨hkeeps.verifier, hkeeps.params⟩
  · trivial
  · trivial

theorem dispatchStep_keepsVerifier (s : State) : KeepsVerifier s (dispatchStep s) := by
  rcases dispatchStep_cases s with ⟨-, hd⟩ | ⟨-, r, -, hd⟩ | ⟨-, -, -, hd⟩ | ⟨-, -, i, -, hd⟩ <;> rw [hd]
  · trivial
  · trivial
  · exact ⟨rfl, rfl⟩
  · exact stepOf_keepsVerifier s i

/-- Settles O58: an instruction carries the verifier along unread, so a step finds it as it was when it feeds it. -/
theorem verifierIsIsolatedAndInLockstep : Obligations.VerifierIsIsolatedAndInLockstep := by
  intro s v
  have hkeeps := dispatchStep_keepsVerifier s
  refine ⟨step_withVerifier v s, fun record diags t hd => ?_, fun reason t golden k hd hverifier => ?_⟩
  · rw [hd] at hkeeps
    obtain ⟨hv, hparams⟩ := hkeeps
    rw [step, hd, StepOutcome.toOutcome, State.feedRecord, hv, hparams]
  · rw [hd] at hkeeps
    obtain ⟨hv, -⟩ := hkeeps
    rw [step, hd, StepOutcome.toOutcome, State.feedHalt, hv, hverifier]
    rfl

end Sys2Proof.Proofs
end
